-- ==== Sys2Proof/Word.lean ====
section
/-! DEFINITION. Word.lean: the names of the widths the spec uses (spec/10_state.md, spec/30_encoding.md). -/

namespace Sys2Proof

/-- One bit of a register or of the wire. -/
abbrev Bit := BitVec 1

/-- One byte of a buffer (spec/00_scope.md R11). -/
abbrev Byte := BitVec 8

/-- A 16-bit register: the magic and the two sequence counters (spec/10_state.md R22, R24, R28). -/
abbrev Half := BitVec 16

end Sys2Proof
end

