-- ==== Sys2Proof/Syntax.lean ====
section
/-! DEFINITION. Syntax.lean: the packet registers, the seven wire elements as they stand on the wire, and Instr,
one constructor per row of spec/opcode_table.json. -/

namespace Sys2Proof

/-- One entry of the cc-data file: `F.CC[i]` (spec/10_state.md R26). The marker bits are not stored (R29). -/
structure Triplet where
  valid : Bit
  ccType : BitVec 2
  d1 : Byte
  d2 : Byte
deriving DecidableEq, Repr, Inhabited

/-- One entry of the service-info file: `F.SVC[j]` (spec/10_state.md R27): the service-number byte and the
attribute bytes, `Cfg.svcEntryBytes - 1` of them. -/
structure SvcEntry where
  sn : Byte
  attr : List Byte
deriving DecidableEq, Repr, Inhabited

/-- The six time-code registers (spec/10_state.md R25), raw wire fields. -/
structure TimeCode where
  h : BitVec 6
  m : BitVec 7
  ff : Bit
  s : BitVec 7
  df : Bit
  f : BitVec 6
deriving DecidableEq, Repr, Inhabited

/-- The seven one-bit registers `F.FLAGS` (spec/10_state.md R23). The first three gate a section. -/
structure Flags where
  tc : Bit
  cc : Bit
  svc : Bit
  start : Bit
  change : Bit
  complete : Bit
  active : Bit
deriving DecidableEq, Repr, Inhabited

/-- The header registers `F.ID`, `F.LEN`, `F.FR`, `F.FLAGS`, `F.HSEQ` (spec/10_state.md R22 to R24). -/
structure HeaderRegs where
  id : Half
  len : Byte
  fr : BitVec 4
  flags : Flags
  hseq : Half
deriving DecidableEq, Repr, Inhabited

/-- The packet record `Pkt` (spec/10_state.md R21, spec/43_packet_decode.md R164): an optional member is `some`
exactly when its option tag is set (R29). -/
structure Pkt where
  hdr : HeaderRegs
  tc : Option TimeCode
  cc : Option (List Triplet)
  svc : Option (List SvcEntry)
  fseq : Half
  cksum : Byte
deriving DecidableEq, Repr, Inhabited

/-- The register bank `F` (spec/10_state.md R21 to R29). A member's registers stand beside its option tag, so
a clear tag leaves them where they are. An entry file is its count register and its entry registers from index 0 on
(R26, R27; log entry 19). -/
structure Bank where
  hdr : HeaderRegs
  tcValid : Bit
  tc : TimeCode
  ccValid : Bit
  ccCount : Nat
  cc : List Triplet
  svcValid : Bit
  svcCount : Nat
  svc : List SvcEntry
  fseq : Half
  cksum : Byte
deriving DecidableEq, Repr, Inhabited

/-- The header as it stands on the wire, reserved fields included (spec/30_encoding.md R71). -/
structure HeaderEl where
  magic : Half
  len : Byte
  fr : BitVec 4
  rsv : BitVec 4
  flags : Flags
  flagsRsv : Bit
  hseq : Half
deriving DecidableEq, Repr, Inhabited

/-- The time-code section on the wire, marker fields included (spec/30_encoding.md R75). -/
structure TimeCodeEl where
  id : Byte
  mkH : BitVec 2
  mkM : Bit
  mkF : Bit
  tc : TimeCode
deriving DecidableEq, Repr, Inhabited

/-- The two-byte head of a counted section on the wire (spec/30_encoding.md R76, R78). -/
structure CountHeadEl where
  id : Byte
  marker : BitVec 3
  count : BitVec 5
deriving DecidableEq, Repr, Inhabited

/-- A cc triplet on the wire, its five marker bits included (spec/30_encoding.md R77). -/
structure TripletEl where
  marker : BitVec 5
  t : Triplet
deriving DecidableEq, Repr, Inhabited

/-- The footer on the wire (spec/30_encoding.md R80). -/
structure FooterEl where
  id : Byte
  fseq : Half
  cksum : Byte
deriving DecidableEq, Repr, Inhabited

/-- A (`hi`, `lo`, `value`) triple of `BF.PACK` (spec/40_bitfield_codec.md R102). -/
structure FieldVal where
  hi : Nat
  lo : Nat
  value : Nat
deriving DecidableEq, Repr, Inhabited

/-- The operations of the block: one constructor per row of spec/opcode_table.json, in the table's order.
A wire element carries every bit it has on the wire, right or wrong: its meaning checks them. -/
inductive Instr where
  -- wire elements (spec/30_encoding.md R71, R75 to R80)
  | header (e : HeaderEl)
  | timecode (e : TimeCodeEl)
  | ccdataHead (e : CountHeadEl)
  | ccTriplet (e : TripletEl)
  | svcinfoHead (e : CountHeadEl)
  | svcEntry (e : SvcEntry)
  | footer (e : FooterEl)
  -- host commands (spec/30_encoding.md R90, R91)
  | nop
  | decode
  | encode
  | ckCompute
  | ckValidate
  | seqObserve
  | seqReset
  | reservedCmd7
  -- bit-field codec (spec/40_bitfield_codec.md)
  | bfExtract (span : List Byte) (hi lo : Nat)
  | bfPack (k : Nat) (fields : List FieldVal)
  | bfChkrsv (span : List Byte) (hi lo const off : Nat)
  -- section codecs (spec/41_section_codec.md)
  | secExpect (id : Byte)
  | hdrDec
  | hdrEnc
  | tcDec
  | tcEnc
  | ccDec
  | ccEnc
  | cctDec (o : Nat)
  | cctEnc (t : Triplet)
  | svcDec
  | svcEnc
  | sveDec (o : Nat)
  | sveEnc (e : SvcEntry)
  | ftrDec
  | ftrEnc
deriving DecidableEq, Repr, Inhabited

end Sys2Proof
end

