-- ==== Sys2Proof/Machine/BitField.lean ====
section
/-! DEFINITION. Machine/BitField.lean: the bit-field codec's pure functions (spec/40_bitfield_codec.md R100 to
R102) and the byte order (spec/20_memory.md R50). Every field of the model is taken and made with these. -/

namespace Sys2Proof.Machine

/-- A span read as one big-endian unsigned integer (spec/20_memory.md R50, spec/00_scope.md R12 `MemRead`). -/
def beNat (span : List Byte) : Nat :=
  span.foldl (fun acc b => acc * 256 + b.toNat) 0

/-- The `k` bytes of `x`, most significant first (spec/00_scope.md R12 `MemWrite`). -/
def toBE : Nat → Nat → List Byte
  | 0, _ => []
  | k + 1, x => BitVec.ofNat 8 (x / 256 ^ k) :: toBE k x

/-- `BF.EXTRACT(span, hi, lo)` (spec/40_bitfield_codec.md R101). -/
def bfExtract (span : List Byte) (hi lo : Nat) : Nat :=
  (beNat span >>> lo) % 2 ^ (hi - lo + 1)

/-- The number `BF.PACK` makes of its triples: the sum of `value << lo` (spec/40_bitfield_codec.md R102). -/
def bfPackValue (fields : List FieldVal) : Nat :=
  (fields.map fun f => f.value <<< f.lo).sum

/-- `BF.PACK(fields)` into a span of `k` bytes (spec/40_bitfield_codec.md R102). -/
def bfPack (k : Nat) (fields : List FieldVal) : List Byte :=
  toBE k (bfPackValue fields)

/-- The descriptor (`hi`, `lo`) names a field of a span of `k` bytes (spec/40_bitfield_codec.md R100). -/
def fieldOk (k hi lo : Nat) : Bool :=
  decide (lo ≤ hi) && decide (hi < 8 * k)

/-- The triples tile a span of `k` bytes, every bit in exactly one, and each value fits its field: the operand
condition of `BF.PACK` (spec/40_bitfield_codec.md R102). -/
def tiles (k : Nat) (fields : List FieldVal) : Bool :=
  fields.all (fun f => fieldOk k f.hi f.lo && decide (f.value < 2 ^ (f.hi - f.lo + 1))) &&
    (List.range (8 * k)).all fun b =>
      (fields.filter fun f => decide (f.lo ≤ b) && decide (b ≤ f.hi)).length == 1

/-- A field of one byte as a register of its own width `w` (spec/30_encoding.md R81). -/
def byteField (w : Nat) (b : Byte) (hi lo : Nat) : BitVec w :=
  BitVec.ofNat w (bfExtract [b] hi lo)

/-- A 16-bit field of two adjacent bytes (spec/20_memory.md R53). -/
def halfField (b0 b1 : Byte) : Half :=
  BitVec.ofNat 16 (bfExtract [b0, b1] 15 0)

/-- A (`hi`, `lo`, `value`) triple from a register. -/
def fieldVal {w : Nat} (hi lo : Nat) (v : BitVec w) : FieldVal :=
  ⟨hi, lo, v.toNat⟩

end Sys2Proof.Machine
end

