-- ==== Sys2Proof/Config.lean ====
section
/-! DEFINITION. Config.lean: the record `Cfg` of spec/00_scope.md R7 (its defaults are `Sys2Proof.Machine.cfg` in
Machine/Params.lean), and the free values: what the spec leaves unspecified. A free value has no body, so
nothing can be proved of which value it is. -/

namespace Sys2Proof

/-- The configuration record, a parameter of every rule (spec/00_scope.md R7, spec/10_state.md R20). -/
structure Cfg where
  magic : Half
  idTimecode : Byte
  idCcdata : Byte
  idSvcinfo : Byte
  idFooter : Byte
  hdrRsv : BitVec 4
  flagsRsv : Bit
  tcMkH : BitVec 2
  tcMkM : Bit
  tcMkF : Bit
  ccCountMk : BitVec 3
  ccMk : BitVec 5
  svcCountMk : BitVec 3
  validFrameRates : List (BitVec 4)
  ccCountMax : Nat
  svcCountMax : Nat
  svcEntryBytes : Nat
  lenMax : Nat
  hdrBytes : Nat
  tcBytes : Nat
  cctBytes : Nat
  ftrBytes : Nat
deriving DecidableEq, Repr

/-- A configuration the source document allows: the sizes the document itself fixes (the rows of R7 whose source
is `doc`), counts that fit their 5-bit fields, and an entry of at least its service-number byte. Every literal
constant of the standard stays free. -/
def Cfg.legal (c : Cfg) : Bool :=
  c.hdrBytes == 7 && c.tcBytes == 5 && c.cctBytes == 3 && c.ftrBytes == 4 && c.lenMax == 255 &&
    decide (c.ccCountMax ≤ 31) && decide (c.svcCountMax ≤ 31) && decide (1 ≤ c.svcEntryBytes)

/-- FREE VALUE: the registers of `F` outside its entries after reset (spec/10_state.md R42,
spec/93_implementation_defined.md I8), and from the start of a DECODE until it ends in Done
(spec/43_packet_decode.md R151, spec/10_state.md R44). Log entries 3, 5. -/
opaque Config.freeBank : Nat → Bank

/-- FREE VALUE: the registers of cc-data entry `i` where nothing has written them (spec/10_state.md R42, R44). Log
entries 3, 5, 19. -/
opaque Config.freeTriplet : Nat → Nat → Triplet

/-- FREE VALUE: the service number of service-info entry `j` where nothing has written it (spec/10_state.md R42, R44).
Log entries 3, 5, 19. -/
opaque Config.freeSn : Nat → Nat → Byte

/-- FREE VALUE: attribute byte `k` of service-info entry `j` where nothing has written it (spec/10_state.md R42, R44).
Log entries 3, 5, 19. -/
opaque Config.freeAttr : Nat → Nat → Nat → Byte

/-- FREE VALUE: the list `WARN` after a failed DECODE (spec/10_state.md R44). Log entry 5. -/
opaque Config.freeWarn : Nat → List Nat

/-- FREE VALUE: `consumed` after a failed DECODE (spec/10_state.md R44). Log entry 5. -/
opaque Config.freeConsumed : Nat → Nat

/-- FREE VALUE: `sum` after a failed DECODE (spec/10_state.md R44). Log entry 5. -/
opaque Config.freeSum : Nat → Byte

/-- FREE VALUE: the bytes of `OUT` after a failed ENCODE (spec/10_state.md R44), of which at most the first
`Cfg.lenMax` are used (R39). Log entry 6. -/
opaque Config.freeOut : Nat → List Byte

end Sys2Proof
end

