-- ==== Sys2Proof/Machine/Params.lean ====
section
/-! DEFINITION. Machine/Params.lean: the default configuration of spec/00_scope.md R7. The constants marked GK
there are general knowledge of the spec's writer (log entry 2). -/

namespace Sys2Proof.Machine

/-- The defaults of `Cfg` (spec/00_scope.md R7). UNVERIFIED: the rows the spec
marks GK are in no source; unsafe: log entry 2. -/
def cfg : Cfg where
  magic := 0x9669#16
  idTimecode := 0x71#8
  idCcdata := 0x72#8
  idSvcinfo := 0x73#8
  idFooter := 0x74#8
  hdrRsv := 0b1111#4
  flagsRsv := 0b1#1
  tcMkH := 0b11#2
  tcMkM := 0b1#1
  tcMkF := 0b0#1
  ccCountMk := 0b111#3
  ccMk := 0b11111#5
  svcCountMk := 0b111#3
  validFrameRates := [1#4, 2#4, 3#4, 4#4, 5#4, 6#4, 7#4, 8#4]
  ccCountMax := 31
  svcCountMax := 31
  svcEntryBytes := 7
  lenMax := 255
  hdrBytes := 7
  tcBytes := 5
  cctBytes := 3
  ftrBytes := 4

end Sys2Proof.Machine
end

