-- ==== Sys2Proof/WellFormed.lean ====
section
/-! DEFINITION. WellFormed.lean: which instructions are well formed. A wire element is well formed when its
fixed bits hold the constants of `Cfg` (the pattern of its row of spec/opcode_table.json, spec/30_encoding.md R83
and R94) and its counts are within their maxima; an internal operation when its operands are those its rule
names. -/

namespace Sys2Proof

/-- The fixed bits of the header (spec/30_encoding.md R71). Any frame-rate code is a well-formed field. -/
def wfHeader (c : Cfg) (e : HeaderEl) : Bool :=
  e.magic == c.magic && e.rsv == c.hdrRsv && e.flagsRsv == c.flagsRsv

/-- The fixed bits of the time-code section (spec/30_encoding.md R75). -/
def wfTimeCode (c : Cfg) (e : TimeCodeEl) : Bool :=
  e.id == c.idTimecode && e.mkH == c.tcMkH && e.mkM == c.tcMkM && e.mkF == c.tcMkF

/-- The fixed bits of the cc-data head and its count's maximum (spec/30_encoding.md R76). -/
def wfCcHead (c : Cfg) (e : CountHeadEl) : Bool :=
  e.id == c.idCcdata && e.marker == c.ccCountMk && decide (e.count.toNat ≤ c.ccCountMax)

/-- The fixed bits of a triplet (spec/30_encoding.md R77). -/
def wfTriplet (c : Cfg) (e : TripletEl) : Bool :=
  e.marker == c.ccMk

/-- The fixed bits of the service-info head and its count's maximum (spec/30_encoding.md R78). -/
def wfSvcHead (c : Cfg) (e : CountHeadEl) : Bool :=
  e.id == c.idSvcinfo && e.marker == c.svcCountMk && decide (e.count.toNat ≤ c.svcCountMax)

/-- A service entry has `Cfg.svcEntryBytes` bytes in all (spec/10_state.md R27, spec/30_encoding.md R79). -/
def wfSvcEntry (c : Cfg) (e : SvcEntry) : Bool :=
  e.attr.length + 1 == c.svcEntryBytes

/-- The fixed bits of the footer (spec/30_encoding.md R80). -/
def wfFooter (c : Cfg) (e : FooterEl) : Bool :=
  e.id == c.idFooter

/-- The operands of `BF.EXTRACT`: a span and a descriptor in it (spec/40_bitfield_codec.md R100, R101). -/
def wfExtract (span : List Byte) (hi lo : Nat) : Bool :=
  Machine.fieldOk span.length hi lo

/-- The operands of `BF.PACK`: triples that tile the span (spec/40_bitfield_codec.md R102). -/
def wfPack (k : Nat) (fields : List FieldVal) : Bool :=
  decide (1 ≤ k) && Machine.tiles k fields

/-- The operands of `BF.CHKRSV`: a field of a span and a constant of the field's width
(spec/40_bitfield_codec.md R103). -/
def wfChkrsv (span : List Byte) (hi lo const : Nat) : Bool :=
  Machine.fieldOk span.length hi lo && decide (const < 2 ^ (hi - lo + 1))

/-- Well-formedness of an instruction under a configuration. -/
def wellFormed (c : Cfg) : Instr → Bool
  | .header e => wfHeader c e
  | .timecode e => wfTimeCode c e
  | .ccdataHead e => wfCcHead c e
  | .ccTriplet e => wfTriplet c e
  | .svcinfoHead e => wfSvcHead c e
  | .svcEntry e => wfSvcEntry c e
  | .footer e => wfFooter c e
  | .nop => true
  | .decode => true
  | .encode => true
  | .ckCompute => true
  | .ckValidate => true
  | .seqObserve => true
  | .seqReset => true
  | .reservedCmd7 => true
  | .bfExtract span hi lo => wfExtract span hi lo
  | .bfPack k fields => wfPack k fields
  | .bfChkrsv span hi lo const _ => wfChkrsv span hi lo const
  | .secExpect _ => true
  | .hdrDec => true
  | .hdrEnc => true
  | .tcDec => true
  | .tcEnc => true
  | .ccDec => true
  | .ccEnc => true
  | .cctDec _ => true
  | .cctEnc _ => true
  | .svcDec => true
  | .svcEnc => true
  | .sveDec _ => true
  | .sveEnc e => wfSvcEntry c e
  | .ftrDec => true
  | .ftrEnc => true

end Sys2Proof
end

