-- ==== Sys2Proof/Decode.lean ====
section
/-! DEFINITION. Decode.lean: from bits to an instruction and back. What an element is, the framer knows from its
state and not from the bytes (spec/30_encoding.md R74), so decoding is told the SLOT the bytes stand in. The
parsers take a slot's bytes apart whatever they hold; `decodeAt` is the decoder of the opcode table, which
rejects, by name, bytes that are not the row's. The encoder stands after the decoder. -/

namespace Sys2Proof

/-- Where the next instruction stands: the command port, or the wire element that is due
(spec/43_packet_decode.md R153, spec/60_exceptions.md R214). -/
inductive Slot where
  | port
  | header
  | timeCode
  | ccHead
  | ccTriplet
  | svcHead
  | svcEntry
  | footer
deriving DecidableEq, Repr

/-- Why bytes are no instruction. -/
inductive DecodeError where
  /-- Fewer bytes than the instruction has. -/
  | short
  /-- A port byte above the 3-bit code (spec/30_encoding.md R90). -/
  | notACode
  /-- A fixed bit differs from the row's, or a count is above its maximum (spec/30_encoding.md R83, R84). -/
  | notTheElement
deriving DecidableEq, Repr

open Machine

/-- The size of a slot's instruction in bytes (spec/30_encoding.md R70, R71, R75 to R80). -/
def slotLen (c : Cfg) : Slot → Nat
  | .port => 1
  | .header => c.hdrBytes
  | .timeCode => c.tcBytes
  | .ccHead => 2
  | .ccTriplet => c.cctBytes
  | .svcHead => 2
  | .svcEntry => c.svcEntryBytes
  | .footer => c.ftrBytes

/-- The host command of a code (spec/30_encoding.md R90, R91). -/
def parseCmd (code : BitVec 3) : Instr :=
  match code.toNat with
  | 0 => .nop
  | 1 => .decode
  | 2 => .encode
  | 3 => .ckCompute
  | 4 => .ckValidate
  | 5 => .seqObserve
  | 6 => .seqReset
  | _ => .reservedCmd7

/-- Byte `i` of a span, 00 where it is not there. The checks come first (spec/00_scope.md R12), so no run uses that 00: log
entry 33. -/
def byteAt (b : List Byte) (i : Nat) : Byte :=
  b.getD i 0

/-- The seven flags of header byte 4 (spec/30_encoding.md R73). -/
def parseFlags (b : Byte) : Flags where
  tc := byteField 1 b 7 7
  cc := byteField 1 b 6 6
  svc := byteField 1 b 5 5
  start := byteField 1 b 4 4
  change := byteField 1 b 3 3
  complete := byteField 1 b 2 2
  active := byteField 1 b 1 1

/-- The header's fields (spec/30_encoding.md R71). -/
def parseHeader (b : List Byte) : HeaderEl where
  magic := halfField (byteAt b 0) (byteAt b 1)
  len := byteField 8 (byteAt b 2) 7 0
  fr := byteField 4 (byteAt b 3) 7 4
  rsv := byteField 4 (byteAt b 3) 3 0
  flags := parseFlags (byteAt b 4)
  flagsRsv := byteField 1 (byteAt b 4) 0 0
  hseq := halfField (byteAt b 5) (byteAt b 6)

/-- The time-code section's fields (spec/30_encoding.md R75). -/
def parseTimeCode (b : List Byte) : TimeCodeEl where
  id := byteField 8 (byteAt b 0) 7 0
  mkH := byteField 2 (byteAt b 1) 7 6
  mkM := byteField 1 (byteAt b 2) 7 7
  mkF := byteField 1 (byteAt b 4) 6 6
  tc :=
    { h := byteField 6 (byteAt b 1) 5 0
      m := byteField 7 (byteAt b 2) 6 0
      ff := byteField 1 (byteAt b 3) 7 7
      s := byteField 7 (byteAt b 3) 6 0
      df := byteField 1 (byteAt b 4) 7 7
      f := byteField 6 (byteAt b 4) 5 0 }

/-- The head of a counted section (spec/30_encoding.md R76, R78). -/
def parseCountHead (b : List Byte) : CountHeadEl where
  id := byteField 8 (byteAt b 0) 7 0
  marker := byteField 3 (byteAt b 1) 7 5
  count := byteField 5 (byteAt b 1) 4 0

/-- A cc triplet's fields (spec/30_encoding.md R77). -/
def parseTriplet (b : List Byte) : TripletEl where
  marker := byteField 5 (byteAt b 0) 7 3
  t :=
    { valid := byteField 1 (byteAt b 0) 2 2
      ccType := byteField 2 (byteAt b 0) 1 0
      d1 := byteField 8 (byteAt b 1) 7 0
      d2 := byteField 8 (byteAt b 2) 7 0 }

/-- A service entry's bytes: the service number, then `Cfg.svcEntryBytes - 1` attributes
(spec/30_encoding.md R79, spec/41_section_codec.md R121). -/
def parseSvcEntry (c : Cfg) (b : List Byte) : SvcEntry where
  sn := byteField 8 (byteAt b 0) 7 0
  attr := (List.range (c.svcEntryBytes - 1)).map fun k => byteField 8 (byteAt b (1 + k)) 7 0

/-- The footer's fields (spec/30_encoding.md R80). -/
def parseFooter (b : List Byte) : FooterEl where
  id := byteField 8 (byteAt b 0) 7 0
  fseq := halfField (byteAt b 1) (byteAt b 2)
  cksum := byteField 8 (byteAt b 3) 7 0

/-- The instruction the bytes of a slot are examined as, whatever they hold: the framer never dispatches on what
it finds (spec/30_encoding.md R74, spec/43_packet_decode.md R153). -/
def parseAt (c : Cfg) (slot : Slot) (b : List Byte) : Instr :=
  match slot with
  | .port => parseCmd (byteField 3 (byteAt b 0) 2 0)
  | .header => .header (parseHeader b)
  | .timeCode => .timecode (parseTimeCode b)
  | .ccHead => .ccdataHead (parseCountHead b)
  | .ccTriplet => .ccTriplet (parseTriplet b)
  | .svcHead => .svcinfoHead (parseCountHead b)
  | .svcEntry => .svcEntry (parseSvcEntry c b)
  | .footer => .footer (parseFooter b)

/-- The decoder of the opcode table: the instruction of the first bytes of a slot, or why they are none. -/
def decodeAt (c : Cfg) (slot : Slot) (b : List Byte) : Except DecodeError Instr :=
  if b.length < slotLen c slot then .error .short
  else if slot = .port ∧ 8 ≤ (byteAt b 0).toNat then .error .notACode
  else if wellFormed c (parseAt c slot b) then .ok (parseAt c slot b)
  else .error .notTheElement

/-- The slots whose instruction has `k` bytes, in the order the table lists their rows: of two rows of one width
the one with fixed bits comes first (HEADER before SVC_ENTRY, whose pattern fixes no bit). -/
def slotsOfLen (c : Cfg) (k : Nat) : List Slot :=
  [Slot.header, .timeCode, .ccHead, .ccTriplet, .svcHead, .footer, .port, .svcEntry].filter
    fun slot => slotLen c slot == k

/-- The first slot that takes the bytes, with the instruction it reads. -/
def firstDecode (c : Cfg) (b : List Byte) : List Slot → Option (Slot × Instr)
  | [] => none
  | slot :: rest =>
    match decodeAt c slot b with
    | .ok i => some (slot, i)
    | .error _ => firstDecode c b rest

/-- The bytes of an instruction whose bits the opcode table numbers as `w`: a row's pattern is ONE number, the
most significant bit of the first byte first (spec/30_encoding.md R94), so the first byte is the most significant
(log entry 17). -/
def tableBytes (nbits w : Nat) : List Byte :=
  toBE ((nbits + 7) / 8) w

/-- The slot and instruction of an opcode-table word under the default configuration. -/
def decodeTableSlot (nbits w : Nat) : Option (Slot × Instr) :=
  firstDecode Machine.cfg (tableBytes nbits w) (slotsOfLen Machine.cfg ((nbits + 7) / 8))

/-- The instruction the decoder reads from an opcode-table word of `nbits` bits. -/
def decodeTableWord (nbits w : Nat) : Option Instr :=
  (decodeTableSlot nbits w).map Prod.snd

/-! The encoder (`BF.PACK` over the layouts of spec/30_encoding.md). -/

/-- The header's 7 bytes (spec/41_section_codec.md R113 with the fields given). -/
def encodeHeader (e : HeaderEl) : List Byte :=
  bfPack 2 [fieldVal 15 0 e.magic] ++ bfPack 1 [fieldVal 7 0 e.len] ++
    bfPack 1 [fieldVal 7 4 e.fr, fieldVal 3 0 e.rsv] ++
    bfPack 1 [fieldVal 7 7 e.flags.tc, fieldVal 6 6 e.flags.cc, fieldVal 5 5 e.flags.svc,
      fieldVal 4 4 e.flags.start, fieldVal 3 3 e.flags.change, fieldVal 2 2 e.flags.complete,
      fieldVal 1 1 e.flags.active, fieldVal 0 0 e.flagsRsv] ++
    bfPack 2 [fieldVal 15 0 e.hseq]

/-- The time-code section's 5 bytes (spec/41_section_codec.md R115). -/
def encodeTimeCode (e : TimeCodeEl) : List Byte :=
  bfPack 1 [fieldVal 7 0 e.id] ++ bfPack 1 [fieldVal 7 6 e.mkH, fieldVal 5 0 e.tc.h] ++
    bfPack 1 [fieldVal 7 7 e.mkM, fieldVal 6 0 e.tc.m] ++
    bfPack 1 [fieldVal 7 7 e.tc.ff, fieldVal 6 0 e.tc.s] ++
    bfPack 1 [fieldVal 7 7 e.tc.df, fieldVal 6 6 e.mkF, fieldVal 5 0 e.tc.f]

/-- The 2 bytes of a counted section's head (spec/41_section_codec.md R118, R122). -/
def encodeCountHead (e : CountHeadEl) : List Byte :=
  bfPack 1 [fieldVal 7 0 e.id] ++ bfPack 1 [fieldVal 7 5 e.marker, fieldVal 4 0 e.count]

/-- A triplet's 3 bytes (spec/41_section_codec.md R119). -/
def encodeTriplet (e : TripletEl) : List Byte :=
  bfPack 1 [fieldVal 7 3 e.marker, fieldVal 2 2 e.t.valid, fieldVal 1 0 e.t.ccType] ++
    bfPack 1 [fieldVal 7 0 e.t.d1] ++ bfPack 1 [fieldVal 7 0 e.t.d2]

/-- A service entry's bytes (spec/41_section_codec.md R123): `ATTR[0]` to `ATTR[W-2]` and no other. -/
def encodeSvcEntry (c : Cfg) (e : SvcEntry) : List Byte :=
  bfPack 1 [fieldVal 7 0 e.sn] ++
    (e.attr.take (c.svcEntryBytes - 1)).flatMap fun a => bfPack 1 [fieldVal 7 0 a]

/-- The footer's first three bytes (spec/41_section_codec.md R125). -/
def encodeFooterHead (e : FooterEl) : List Byte :=
  bfPack 1 [fieldVal 7 0 e.id] ++ bfPack 2 [fieldVal 15 0 e.fseq]

/-- The footer's 4 bytes (spec/30_encoding.md R80). -/
def encodeFooter (e : FooterEl) : List Byte :=
  encodeFooterHead e ++ bfPack 1 [fieldVal 7 0 e.cksum]

/-- The slot an instruction stands in and its bytes there. The internal operations are selected by no bit
pattern and have neither (spec/30_encoding.md R94). -/
def encode (c : Cfg) : Instr → Option (Slot × List Byte)
  | .header e => some (.header, encodeHeader e)
  | .timecode e => some (.timeCode, encodeTimeCode e)
  | .ccdataHead e => some (.ccHead, encodeCountHead e)
  | .ccTriplet e => some (.ccTriplet, encodeTriplet e)
  | .svcinfoHead e => some (.svcHead, encodeCountHead e)
  | .svcEntry e => some (.svcEntry, encodeSvcEntry c e)
  | .footer e => some (.footer, encodeFooter e)
  | .nop => some (.port, [0#8])
  | .decode => some (.port, [1#8])
  | .encode => some (.port, [2#8])
  | .ckCompute => some (.port, [3#8])
  | .ckValidate => some (.port, [4#8])
  | .seqObserve => some (.port, [5#8])
  | .seqReset => some (.port, [6#8])
  | .reservedCmd7 => some (.port, [7#8])
  | .bfExtract _ _ _ => none
  | .bfPack _ _ => none
  | .bfChkrsv _ _ _ _ _ => none
  | .secExpect _ => none
  | .hdrDec => none
  | .hdrEnc => none
  | .tcDec => none
  | .tcEnc => none
  | .ccDec => none
  | .ccEnc => none
  | .cctDec _ => none
  | .cctEnc _ => none
  | .svcDec => none
  | .svcEnc => none
  | .sveDec _ => none
  | .sveEnc _ => none
  | .ftrDec => none
  | .ftrEnc => none

end Sys2Proof
end

