-- ==== Sys2Proof/Machine/Free.lean ====
section
/-! DEFINITION. Machine/Free.lean: what a register of `F` holds that nothing has written: a free value, of the width
the register has. `d` is the number of the draw (`State.draws`). -/

namespace Sys2Proof.Machine

/-- The largest count a 5-bit count register holds (spec/10_state.md R26, R27). -/
def countMost : Nat := 31

/-- The first `k` registers of a file: those the list has, and free values for those it lacks. -/
def fileOf {α : Type} (fresh : Nat → α) (k : Nat) (l : List α) : List α :=
  (List.range k).map fun i => l.getD i (fresh i)

/-- Service-info entry `j` with the attribute registers it has under a configuration: `Cfg.svcEntryBytes - 1` of them,
those it lacks holding free values (spec/10_state.md R27). -/
def wholeEntry (c : Cfg) (d j : Nat) (e : SvcEntry) : SvcEntry where
  sn := e.sn
  attr := fileOf (Config.freeAttr d j) (c.svcEntryBytes - 1) e.attr

/-- Service-info entry `j` unwritten. -/
def freeEntry (c : Cfg) (d j : Nat) : SvcEntry :=
  wholeEntry c d j ⟨Config.freeSn d j, []⟩

/-- The entries of a service-info file, each with the registers it has under a configuration. An entry of
`Cfg.svcEntryBytes` bytes stands as it is; what an entry of another configuration lacks is a free value, draw 0. -/
def wholeEntries (c : Cfg) (l : List SvcEntry) : List SvcEntry :=
  l.mapIdx (wholeEntry c 0)

/-- Register `i` of a file written, the ones before it that the list lacks holding free values. -/
def putEntry {α : Type} (fresh : Nat → α) (l : List α) (i : Nat) (v : α) : List α :=
  (fileOf fresh (max l.length (i + 1)) l).set i v

/-- The bank with every register unwritten: after reset and after a failed DECODE (spec/10_state.md R42, R44;
spec/93_implementation_defined.md I7, I8). A count keeps its 5 bits, and the entries below it exist (R26, R27). -/
def unspecifiedBank (c : Cfg) (d : Nat) : Bank :=
  let b := Config.freeBank d
  { b with
    ccCount := b.ccCount % (countMost + 1)
    cc := (List.range (b.ccCount % (countMost + 1))).map (Config.freeTriplet d)
    svcCount := b.svcCount % (countMost + 1)
    svc := (List.range (b.svcCount % (countMost + 1))).map (freeEntry c d) }

end Sys2Proof.Machine
end

