-- ==== Sys2Proof/Machine/State.lean ====
section
/-! DEFINITION. Machine/State.lean: the state of the block (spec/10_state.md R20 to R39), the reasons a step can
stop, and the state after hardware reset (R42). -/

namespace Sys2Proof.Machine

/-- A buffer's bytes: (address, byte) pairs in the canonical form of `memWf` (Machine/Ops.lean). -/
abbrev Memory := List Host.Cell

/-- The reserved-bit policy `MODE` (spec/10_state.md R31). -/
inductive Mode where
  | strict
  | lenient
deriving DecidableEq, Repr

/-- The framing state `st` (spec/10_state.md R32). -/
inductive FrameState where
  | idle
  | header
  | timeCode
  | ccData
  | serviceInfo
  | footer
  | done
  | failed
deriving DecidableEq, Repr

/-- The failure kinds (spec/60_exceptions.md R201); `none` is code 0. -/
inductive ErrKind where
  | none
  | invalidMagic
  | invalidFrameRate
  | unexpectedSectionId
  | reservedBitMismatch
  | sequenceMismatch
  | checksumMismatch
  | lengthMismatch
  | countOverflow
  | truncatedBuffer
  | inconsistentFlags
deriving DecidableEq, Repr

/-- `REPORT.KIND` (spec/10_state.md R37). -/
inductive ReportKind where
  | continuous
  | gap
  | duplicate
  | reorder
deriving DecidableEq, Repr

/-- `REPORT` (spec/10_state.md R37): the kind and the number of missing packets. -/
structure Report where
  kind : ReportKind
  n : BitVec 15
deriving DecidableEq, Repr

/-- The registers of `F` by name (spec/10_state.md R22 to R29). Entry `i` of the cc-data file is four registers, entry
`j` of the service-info file its number and its attributes `k` (R26, R27). -/
inductive FReg where
  | id | len | fr
  | tcPresent | ccPresent | svcPresent | svcStart | svcChange | svcComplete | csActive
  | hseq
  | tcValid | tcH | tcM | tcFf | tcS | tcDf | tcF
  | ccValid | ccCount | svcValid | svcCount
  | fseq | cksum
  | ccEntryValid (i : Nat) | ccEntryType (i : Nat) | ccEntryD1 (i : Nat) | ccEntryD2 (i : Nat)
  | svcEntrySn (j : Nat) | svcEntryAttr (j k : Nat)
deriving DecidableEq, Repr

/-- The pending packet of a running decode (spec/43_packet_decode.md R152 to R156): a member is `none` until its
section's head has been read, and a counted member holds the count read and the entries so far. -/
structure Pending where
  hdr : HeaderRegs
  tc : Option TimeCode
  cc : Option (BitVec 5 × List Triplet)
  svc : Option (BitVec 5 × List SvcEntry)
deriving DecidableEq, Repr

/-- What the last internal operation handed to its caller (spec/40_bitfield_codec.md R101, R102;
spec/41_section_codec.md R111): the value, with `bytes_consumed` where the rule gives one. The MODEL's own latch:
log entry 13. -/
inductive Ret where
  | nothing
  | value (v : Nat)
  | span (bytes : List Byte)
  | header (h : HeaderRegs) (used : Nat)
  | timeCode (t : TimeCode) (used : Nat)
  | ccData (cc : List Triplet) (used : Nat)
  | triplet (t : Triplet)
  | svcInfo (svc : List SvcEntry) (used : Nat)
  | entry (e : SvcEntry)
  | footer (fseq : Half) (cksum : Byte) (used : Nat)
deriving DecidableEq, Repr

/-- The state of one instance of the block (spec/10_state.md R20). -/
structure State where
  /-- `CMD`, the command port (R38). -/
  cmd : BitVec 3
  /-- `OPERAND` of `SEQ_OBSERVE` (R38). -/
  operand : Half
  /-- `MODE` (R31). -/
  mode : Mode
  /-- The bytes of `IN` (R39). -/
  inMem : Memory
  /-- The length of `IN`, the operand `n` of a command (R38). -/
  inLen : Nat
  /-- The bank `F` (R21). -/
  f : Bank
  /-- The MODEL's own record of the registers of `F` written since reset or since a failed DECODE, in the order of
  `regKey`. It bounds the host's moves (spec/70_reset_and_hazards.md R232, R233) and stops no instruction (log entry
  3). -/
  fWritten : List FReg
  /-- `st` (R32). -/
  st : FrameState
  /-- `cur` (R33). -/
  cur : Nat
  /-- `n`, latched at the start of a decode (R34, spec/43_packet_decode.md R151). -/
  n : Nat
  /-- `consumed` (R34). -/
  consumed : Nat
  /-- `sum` (R34). -/
  sum : Byte
  /-- The sample of `MODE` the running decode uses (R31, spec/43_packet_decode.md R151). -/
  modeSample : Mode
  /-- The pending packet (spec/43_packet_decode.md R152). -/
  pend : Pending
  /-- `ERR_KIND` (R35). -/
  errKind : ErrKind
  /-- `ERR_OFF` (R35). -/
  errOff : Nat
  /-- `WARN` (R36). -/
  warn : List Nat
  /-- The bytes of `OUT` (R39). -/
  outMem : Memory
  /-- The length of `OUT` (R42). -/
  outLen : Nat
  /-- `RESULT` (R38). -/
  result : Byte
  /-- `REPORT` (R37). -/
  report : Report
  /-- `LAST_SEQ` (R30): `none` is `LAST_VALID` = 0. -/
  lastSeq : Option Half
  /-- The model's own latch of an internal operation's result (log entry 13). -/
  ret : Ret
  /-- The model's own count of the unspecified values taken so far (log entry 7). -/
  draws : Nat
deriving DecidableEq, Repr

/-- Why the machine stops with a fault: it never does. Every operation ends in `Done`, in `Failed` or in a written
result (spec/70_reset_and_hazards.md R241, spec/93_implementation_defined.md, "no behaviour this spec treats as
stuck"), and a read of a register nothing has written gives a free value (log entry 3). -/
inductive Fault where
deriving DecidableEq, Repr

/-- Why an instruction or a host write has no meaning. -/
inductive Refusal where
  /-- Raised by exec's arms for an instruction without a meaning. Safe. -/
  | notModelled (mnemonic : String)
  /-- Raised by RESERVED_CMD7: the block refuses the code (spec/30_encoding.md R91). Safe. -/
  | reservedCommand
  /-- Raised by a wire element given to the framer in a state in which it is not the element due
  (spec/43_packet_decode.md R153). `step` never does so: it examines what stands at the cursor as the element due.
  Safe: log entry 12. -/
  | elementNotDue
  /-- Raised by an internal operation whose operands are outside those its rule names
  (spec/40_bitfield_codec.md R100, R102; spec/41_section_codec.md R117, R118, R121, R122). Safe: log entry 21. -/
  | outsideContract
  /-- Raised by `hostWrite` (Machine/HostPort.lean), never by a step: the host may not write while an operation
  runs (spec/60_exceptions.md R214, spec/70_reset_and_hazards.md R236, R237). Safe. -/
  | hostBusy
  /-- Raised by the host's write of `CMD`, never by an instruction or a step: the host has no such move as an ENCODE of a register
  that nothing has written (spec/70_reset_and_hazards.md R233, spec/92_eei_decisions.md D32,
  spec/93_implementation_defined.md I6). Safe: log entry 3. -/
  | unwrittenOperand
  /-- Raised by `hostWrite`, never by a step: an entry or attribute register that does not exist, or a service entry
  of another width than `Cfg.svcEntryBytes` (spec/10_state.md R26, R27). Safe: log entries 19, 20. -/
  | badWrite
deriving DecidableEq, Repr

/-- The outcome of a step of this machine. -/
abbrev Out := Host.Outcome State Fault Refusal

/-- All header registers 0. -/
def HeaderRegs.zero : HeaderRegs where
  id := 0
  len := 0
  fr := 0
  flags := ⟨0, 0, 0, 0, 0, 0, 0⟩
  hseq := 0

/-- A pending packet of which nothing has been read. -/
def Pending.empty : Pending where
  hdr := HeaderRegs.zero
  tc := none
  cc := none
  svc := none

/-- A cc-data entry with its registers 0. -/
def Triplet.zero : Triplet where
  valid := 0
  ccType := 0
  d1 := 0
  d2 := 0

/-- The state after hardware reset of a block under a configuration (spec/10_state.md R42,
spec/70_reset_and_hazards.md R230). `f` holds free values, the first drawn. The values the spec does not give (`cmd`,
`operand`, `f`, `modeSample`, `pend`, `ret`, `draws`) are log entries 3, 7, 8, 13, 14. -/
def State.resetWith (c : Cfg) : State where
  cmd := 0
  operand := 0
  mode := .strict
  inMem := []
  inLen := 0
  f := unspecifiedBank c 0
  fWritten := []
  st := .idle
  cur := 0
  n := 0
  consumed := 0
  sum := 0
  modeSample := .strict
  pend := Pending.empty
  errKind := .none
  errOff := 0
  warn := []
  outMem := []
  outLen := 0
  result := 0
  report := ⟨.continuous, 0⟩
  lastSeq := none
  ret := .nothing
  draws := 1

/-- The state after hardware reset under the default configuration. -/
def State.reset : State :=
  State.resetWith cfg

end Sys2Proof.Machine
end

