-- ==== Sys2Proof/Machine/Flags.lean ====
section
/-! DEFINITION. Machine/Flags.lean: the condition flags of the block: the failure kinds' codes, the check lists
that decide which failure is raised and which warnings are recorded, the checksum arithmetic, and the tracker's
report (spec/60_exceptions.md, spec/42_checksum_engine.md, spec/45_sequence_tracker.md). -/

namespace Sys2Proof.Machine

/-- The 4-bit code of a kind in `ERR_KIND` (spec/60_exceptions.md R201). -/
def errCode : ErrKind → BitVec 4
  | .none => 0
  | .invalidMagic => 1
  | .invalidFrameRate => 2
  | .unexpectedSectionId => 3
  | .reservedBitMismatch => 4
  | .sequenceMismatch => 5
  | .checksumMismatch => 6
  | .lengthMismatch => 7
  | .countOverflow => 8
  | .truncatedBuffer => 9
  | .inconsistentFlags => 10

/-- The 1-bit code of `MODE` (spec/10_state.md R31). -/
def modeBit : Mode → Bit
  | .strict => 0
  | .lenient => 1

/-- The 2-bit code of `REPORT.KIND` (spec/10_state.md R37). -/
def reportCode : ReportKind → BitVec 2
  | .continuous => 0
  | .gap => 1
  | .duplicate => 2
  | .reorder => 3

/-- What `raise K(off)` carries (spec/60_exceptions.md R206). -/
structure Raise where
  kind : ErrKind
  off : Nat
deriving DecidableEq, Repr

/-- One check of a rule: `must` is `if not ok then raise kind(off)`; `rsv` is `chk(ok, off)` on a reserved field
(spec/00_scope.md R13). -/
inductive Check where
  | must (ok : Bool) (kind : ErrKind) (off : Nat)
  | rsv (ok : Bool) (off : Nat)
deriving DecidableEq, Repr

/-- `chk(ok, off)`, the one place the reserved-bit policy is applied (spec/00_scope.md R13,
spec/40_bitfield_codec.md R103, R104): the warning list afterwards, or the failure. -/
def chk (m : Mode) (warn : List Nat) (ok : Bool) (off : Nat) : Except Raise (List Nat) :=
  if ok then .ok warn
  else
    match m with
    | .strict => .error ⟨.reservedBitMismatch, off⟩
    | .lenient => .ok (warn ++ [off])

/-- The checks of a rule in their order; the first that raises ends the operation (spec/41_section_codec.md R126,
spec/60_exceptions.md R205). -/
def runChecks (m : Mode) (warn : List Nat) : List Check → Except Raise (List Nat)
  | [] => .ok warn
  | .must ok kind off :: rest => if ok then runChecks m warn rest else .error ⟨kind, off⟩
  | .rsv ok off :: rest =>
    match chk m warn ok off with
    | .error r => .error r
    | .ok warn' => runChecks m warn' rest

/-- `SUM8` (spec/42_checksum_engine.md R141). -/
def sum8 (bytes : List Byte) : Byte :=
  bytes.foldl (fun acc b => acc + b) 0

/-- `neg8` (spec/42_checksum_engine.md R140). -/
def neg8 (x : Byte) : Byte :=
  BitVec.ofNat 8 ((256 - x.toNat) % 256)

/-- `CK_COMPUTE` of a byte sequence (spec/42_checksum_engine.md R142). -/
def ckComputeOf (bytes : List Byte) : Byte :=
  neg8 (sum8 bytes)

/-- `CK_VALIDATE` of a byte sequence as `RESULT` (spec/42_checksum_engine.md R143). -/
def ckValidateOf (bytes : List Byte) : Byte :=
  if sum8 bytes = 0 then 1 else 0

/-- The forward distance `(seq - LAST) mod 65536` (spec/45_sequence_tracker.md R191, R192). -/
def seqDistance (last seq : Half) : Nat :=
  (seq - last).toNat

/-- The report of an observation (spec/45_sequence_tracker.md R191). -/
def seqReport (last : Option Half) (seq : Half) : Report :=
  match last with
  | none => ⟨.continuous, 0⟩
  | some l =>
    let d := seqDistance l seq
    if d = 1 then ⟨.continuous, 0⟩
    else if d = 0 then ⟨.duplicate, 0⟩
    else if d ≤ 32767 then ⟨.gap, BitVec.ofNat 15 (d - 1)⟩
    else ⟨.reorder, 0⟩

end Sys2Proof.Machine
end

