-- ==== Sys2Proof/Machine/Ops.lean ====
section
/-! DEFINITION. Machine/Ops.lean: the operations over memory, over the bank `F` and over the framing state that
the meanings share. Taking an exception is `raiseDecode` and `failEncode`; there is no return instruction: the
next operation's start, `startDecode` or `startEncode`, clears the failure (spec/60_exceptions.md R206, R208). -/

namespace Sys2Proof.Machine

/-! Memory: a sorted list of the bytes that differ from 0. -/

/-- The canonical form: addresses strictly rising, no byte equal to what an unlisted address reads as. -/
def memWf : Memory → Bool
  | [] => true
  | [(_, v)] => v != 0
  | (a, v) :: (b, w) :: rest => v != 0 && decide (a < b) && memWf ((b, w) :: rest)

/-- One byte. An unlisted address reads as 00: DESIGN CHOICE, unsafe, log entry 4. -/
def memRead : Memory → Nat → Byte
  | [], _ => 0
  | (k, v) :: rest, a => if k = a then v else memRead rest a

/-- Write one byte, keeping the canonical form. -/
def memWrite : Memory → Nat → Byte → Memory
  | [], a, v => if v = 0 then [] else [(a, v)]
  | (k, w) :: rest, a, v =>
    if a < k then (if v = 0 then (k, w) :: rest else (a, v) :: (k, w) :: rest)
    else if a = k then (if v = 0 then rest else (a, v) :: rest)
    else (k, w) :: memWrite rest a v

/-- The `k` bytes from address `a` on. -/
def memSpan (m : Memory) (a k : Nat) : List Byte :=
  (List.range k).map fun i => memRead m (a + i)

/-- Write bytes from address `a` on (spec/00_scope.md R12 `MemWrite`). -/
def memWriteBytes : Memory → Nat → List Byte → Memory
  | m, _, [] => m
  | m, a, b :: rest => memWriteBytes (memWrite m a b) (a + 1) rest

/-- The buffer a running operation reads: `IN` up to the latched length `n` (spec/10_state.md R34). -/
def inBytes (s : State) : List Byte :=
  memSpan s.inMem 0 s.n

/-- The buffer the host gives a command: `IN` up to its length (spec/10_state.md R38). -/
def operandBytes (s : State) : List Byte :=
  memSpan s.inMem 0 s.inLen

/-- The bytes of `OUT` (spec/20_memory.md R56). -/
def outBytes (s : State) : List Byte :=
  memSpan s.outMem 0 s.outLen

/-- The `k` bytes of a buffer from `a` on; fewer where the buffer ends. -/
def spanOf (buf : List Byte) (a k : Nat) : List Byte :=
  (buf.drop a).take k

/-! The port. -/

/-- An operation is in progress (spec/60_exceptions.md R214). -/
def busy (s : State) : Bool :=
  match s.st with
  | .idle => false
  | .done => false
  | .failed => false
  | .header => true
  | .timeCode => true
  | .ccData => true
  | .serviceInfo => true
  | .footer => true

/-- `ready` of the port (spec/60_exceptions.md R214). -/
def ready (s : State) : Bool :=
  !busy s

/-- A command offered while the port is not ready has no effect (spec/60_exceptions.md R214; log entry 11). -/
def whenReady (s : State) (out : Out) : Out :=
  if busy s then .next s else out

/-- The policy a check uses: the sample of the running decode, or `MODE` itself where none runs
(spec/10_state.md R31; log entry 27). -/
def effMode (s : State) : Mode :=
  if busy s then s.modeSample else s.mode

/-! The bank `F`. -/

/-- The registers of `F` outside the entry files' entries, in the order of `regKey`. -/
def fixedRegs : List FReg :=
  [.id, .len, .fr, .tcPresent, .ccPresent, .svcPresent, .svcStart, .svcChange, .svcComplete, .csActive, .hseq,
    .tcValid, .tcH, .tcM, .tcFf, .tcS, .tcDf, .tcF, .ccValid, .ccCount, .svcValid, .svcCount, .fseq, .cksum]

/-- The time-code registers. -/
def tcRegs : List FReg :=
  [.tcH, .tcM, .tcFf, .tcS, .tcDf, .tcF]

/-- The four registers of cc-data entry `i` (spec/10_state.md R26). -/
def ccEntryRegs (i : Nat) : List FReg :=
  [.ccEntryValid i, .ccEntryType i, .ccEntryD1 i, .ccEntryD2 i]

/-- The registers of service-info entry `j` (spec/10_state.md R27). -/
def svcEntryRegs (c : Cfg) (j : Nat) : List FReg :=
  .svcEntrySn j :: (List.range (c.svcEntryBytes - 1)).map (.svcEntryAttr j)

/-- The index of the cc-data entry a register belongs to. -/
def ccIndexOf : FReg → Option Nat
  | .ccEntryValid i | .ccEntryType i | .ccEntryD1 i | .ccEntryD2 i => some i
  | _ => none

/-- The index of the service-info entry a register belongs to. -/
def svcIndexOf : FReg → Option Nat
  | .svcEntrySn j | .svcEntryAttr j _ => some j
  | _ => none

/-- The place of a register in the one order in which `fWritten` lists them: the fixed registers, then the entry
registers, those of one kind together. -/
def regKey : FReg → Nat × Nat
  | .ccEntryValid i => (24, i)
  | .ccEntryType i => (25, i)
  | .ccEntryD1 i => (26, i)
  | .ccEntryD2 i => (27, i)
  | .svcEntrySn j => (28, j)
  | .svcEntryAttr j k => (29 + k, j)
  | r => (fixedRegs.idxOf r, 0)

/-- One register comes before another. -/
def regBefore (a b : FReg) : Bool :=
  decide ((regKey a).1 < (regKey b).1) || (regKey a).1 == (regKey b).1 && decide ((regKey a).2 < (regKey b).2)

/-- One more register in an ordered list of them. -/
def insertReg (r : FReg) : List FReg → List FReg
  | [] => [r]
  | x :: rest => if x = r then x :: rest else if regBefore r x then r :: x :: rest else x :: insertReg r rest

/-- The written registers after more are written. -/
def markWritten (w : List FReg) (rs : List FReg) : List FReg :=
  rs.foldl (fun acc r => insertReg r acc) w

/-- The written registers without those of the entries at index `k` and above, of the file `indexOf` speaks of. -/
def forgetFrom (indexOf : FReg → Option Nat) (k : Nat) (w : List FReg) : List FReg :=
  w.filter fun r =>
    match indexOf r with
    | none => true
    | some i => decide (i < k)

/-- The cc-data entries of the bank: `F.CC[i]` for `i < F.CC_COUNT` (spec/10_state.md R26). -/
def ccEntries (b : Bank) : List Triplet :=
  fileOf (Config.freeTriplet 0) b.ccCount b.cc

/-- The service-info entries of the bank: `F.SVC[j]` for `j < F.SVC_COUNT`, each with its attributes `ATTR[k]` for
`k < Cfg.svcEntryBytes - 1` (spec/10_state.md R27). -/
def svcEntries (c : Cfg) (b : Bank) : List SvcEntry :=
  wholeEntries c (fileOf (freeEntry c 0) b.svcCount b.svc)

/-- The packet record the bank holds: a member is there when its option tag is set (spec/10_state.md R29). -/
def bankPkt (c : Cfg) (b : Bank) : Pkt where
  hdr := b.hdr
  tc := if b.tcValid = 1 then some b.tc else none
  cc := if b.ccValid = 1 then some (ccEntries b) else none
  svc := if b.svcValid = 1 then some (svcEntries c b) else none
  fseq := b.fseq
  cksum := b.cksum

/-- An option tag. -/
def tagOf {α : Type} (o : Option α) : Bit :=
  if o.isSome then 1 else 0

/-- The bank with a packet record loaded: the registers of an absent member keep what they hold
(spec/43_packet_decode.md R160; log entry 26). -/
def loadBank (b : Bank) (p : Pkt) : Bank where
  hdr := p.hdr
  tcValid := tagOf p.tc
  tc := p.tc.getD b.tc
  ccValid := tagOf p.cc
  ccCount := (p.cc.map List.length).getD b.ccCount
  cc := p.cc.getD b.cc
  svcValid := tagOf p.svc
  svcCount := (p.svc.map List.length).getD b.svcCount
  svc := p.svc.getD b.svc
  fseq := p.fseq
  cksum := p.cksum

/-- The registers a packet record defines: all but those of an absent member, in the order of `regKey`. -/
def pktRegs (c : Cfg) (p : Pkt) : List FReg :=
  let ccs := List.range ((p.cc.map List.length).getD 0)
  let svcs := List.range ((p.svc.map List.length).getD 0)
  (fixedRegs.filter fun r =>
      (p.tc.isSome || !tcRegs.contains r) && (p.cc.isSome || r != .ccCount) && (p.svc.isSome || r != .svcCount)) ++
    ccs.map .ccEntryValid ++ ccs.map .ccEntryType ++ ccs.map .ccEntryD1 ++ ccs.map .ccEntryD2 ++
    svcs.map .svcEntrySn ++
    (List.range (c.svcEntryBytes - 1)).flatMap fun k => svcs.map fun j => .svcEntryAttr j k

/-- The registers of the header ENCODE reads (spec/44_packet_encode.md R170). -/
def hdrEncReads : List FReg :=
  [.fr, .tcPresent, .ccPresent, .svcPresent, .svcStart, .svcChange, .svcComplete, .csActive, .hseq]

/-- The registers of the cc-data file an encoder reads: the count, and every entry below it
(spec/70_reset_and_hazards.md R232). -/
def ccReads (b : Bank) : List FReg :=
  .ccCount :: (List.range b.ccCount).flatMap ccEntryRegs

/-- The registers of the service-info file an encoder reads: the count, and every entry below it
(spec/70_reset_and_hazards.md R232). -/
def svcReads (c : Cfg) (b : Bank) : List FReg :=
  .svcCount :: (List.range b.svcCount).flatMap (svcEntryRegs c)

/-- The registers ENCODE reads: of a member, only when its tag is set (spec/44_packet_encode.md R170,
spec/70_reset_and_hazards.md R232). -/
def encodeReads (c : Cfg) (b : Bank) : List FReg :=
  hdrEncReads ++ [.tcValid, .ccValid, .svcValid] ++ (if b.tcValid = 1 then tcRegs else []) ++
    (if b.ccValid = 1 then ccReads b else []) ++ (if b.svcValid = 1 then svcReads c b else [])

/-- Every register ENCODE reads has been written: what the host must do before an ENCODE
(spec/70_reset_and_hazards.md R232). -/
def encodeReady (c : Cfg) (s : State) : Bool :=
  (encodeReads c s.f).all fun r => s.fWritten.contains r

/-! Taking a failure, and the start and end of an operation. -/

/-- `raise K(off)` of a decode-side operation (spec/60_exceptions.md R206, spec/43_packet_decode.md R161): the
kind, the offset and `st`; `F`, `WARN`, `consumed` and `sum` hold no defined value afterwards (spec/10_state.md
R44, free values, log entry 5), and nothing decoded before stays visible (R207). DESIGN CHOICE: the same where an
internal operation raises with no DECODE running, of which R44 says nothing (log entry 32). -/
def raiseDecode (c : Cfg) (s : State) (r : Raise) : State :=
  { s with
    st := .failed
    errKind := r.kind
    errOff := r.off
    f := unspecifiedBank c s.draws
    fWritten := []
    warn := Config.freeWarn s.draws
    consumed := Config.freeConsumed s.draws
    sum := Config.freeSum s.draws
    pend := Pending.empty
    ret := .nothing
    draws := s.draws + 1 }

/-- The start of a DECODE (spec/43_packet_decode.md R151). -/
def startDecode (c : Cfg) (s : State) : State :=
  { s with
    st := .header
    cur := 0
    n := s.inLen
    consumed := 0
    sum := 0
    modeSample := s.mode
    errKind := .none
    errOff := 0
    warn := []
    f := unspecifiedBank c s.draws
    fWritten := []
    pend := Pending.empty
    draws := s.draws + 1 }

/-- The end of a DECODE in `Done` (spec/43_packet_decode.md R160): the packet record in `F`, the consumed length,
its sum and the warnings. -/
def finishDecode (c : Cfg) (s : State) (p : Pkt) (consumed : Nat) (sum : Byte) (warn : List Nat) : State :=
  { s with
    st := .done
    cur := consumed
    consumed := consumed
    sum := sum
    warn := warn
    f := loadBank s.f p
    fWritten := pktRegs c p
    pend := Pending.empty }

/-- The start of an ENCODE (spec/44_packet_encode.md R171, spec/70_reset_and_hazards.md R231; log entry 23). -/
def startEncode (s : State) : State :=
  { s with
    st := .header
    cur := 0
    consumed := 0
    sum := 0
    errKind := .none
    errOff := 0 }

/-- The end of an ENCODE in `Failed` (spec/44_packet_encode.md R170): the kind, offset 0, and `OUT` with no
defined value (spec/10_state.md R44, a free value, log entry 6). -/
def failEncode (c : Cfg) (s : State) (r : Raise) : State :=
  { s with
    st := .failed
    errKind := r.kind
    errOff := r.off
    outMem := memWriteBytes [] 0 ((Config.freeOut s.draws).take c.lenMax)
    outLen := ((Config.freeOut s.draws).take c.lenMax).length
    draws := s.draws + 1 }

/-- The end of an ENCODE in `Done` (spec/44_packet_encode.md R177, R178): the packet in `OUT` from index 0. -/
def finishEncode (s : State) (bytes : List Byte) : State :=
  { s with
    st := .done
    cur := bytes.length
    outMem := memWriteBytes s.outMem 0 bytes
    outLen := bytes.length }

/-- `Emit` (spec/00_scope.md R12): append bytes to `OUT`; `cur` counts the bytes emitted (spec/10_state.md R33). -/
def emit (s : State) (bytes : List Byte) : State :=
  { s with
    cur := s.cur + bytes.length
    outMem := memWriteBytes s.outMem s.outLen bytes
    outLen := s.outLen + bytes.length }

/-- A checksum command: its start clears the failure registers (spec/10_state.md R35, R41; log entry 10), and its
result is written. `st` is not (spec/10_state.md R41, spec/42_checksum_engine.md R143). -/
def finishChecksum (s : State) (result : Byte) : State :=
  { s with
    errKind := .none
    errOff := 0
    result := result }

/-- `st <- Done` (spec/42_checksum_engine.md R142). -/
def markDone (s : State) : State :=
  { s with st := .done }

/-- The tracker after an observation (spec/45_sequence_tracker.md R191, R193). -/
def observe (s : State) : State :=
  { s with
    report := seqReport s.lastSeq s.operand
    lastSeq := some s.operand }

/-- A fresh tracker (spec/45_sequence_tracker.md R195). -/
def forgetLast (s : State) : State :=
  { s with lastSeq := none }

/-- Hand a result to the caller of an internal operation, with the warnings recorded on the way. -/
def handBack (s : State) (warn : List Nat) (r : Ret) : State :=
  { s with
    warn := warn
    ret := r }

/-! The framing state. -/

/-- The demultiplexer: the state after leaving `st`, by the three gating flags alone
(spec/43_packet_decode.md R153). -/
def nextFrame (fl : Flags) (st : FrameState) : FrameState :=
  match st with
  | .header => if fl.tc = 1 then .timeCode else if fl.cc = 1 then .ccData else if fl.svc = 1 then .serviceInfo else .footer
  | .timeCode => if fl.cc = 1 then .ccData else if fl.svc = 1 then .serviceInfo else .footer
  | .ccData => if fl.svc = 1 then .serviceInfo else .footer
  | .serviceInfo => .footer
  | .footer => .done
  | .idle => .idle
  | .done => .done
  | .failed => .failed

/-- The slot of the next instruction: the port, or the wire element that is due. A counted section's head is due
until it has been read, then its entries (spec/43_packet_decode.md R153, spec/41_section_codec.md R116, R120). -/
def slotOf (s : State) : Slot :=
  match s.st with
  | .idle => .port
  | .done => .port
  | .failed => .port
  | .header => .header
  | .timeCode => .timeCode
  | .ccData => if s.pend.cc.isSome then .ccTriplet else .ccHead
  | .serviceInfo => if s.pend.svc.isSome then .svcEntry else .svcHead
  | .footer => .footer

/-- The index in `IN` of the wire element due: the cursor (spec/10_state.md R33), and 0 in state Header
(spec/43_packet_decode.md R152; log entry 30). -/
def elementAddr (s : State) : Nat :=
  match slotOf s with
  | .port => 0
  | .header => 0
  | .timeCode => s.cur
  | .ccHead => s.cur
  | .ccTriplet => s.cur
  | .svcHead => s.cur
  | .svcEntry => s.cur
  | .footer => s.cur

/-- The bytes the next instruction is read from: the code on the port, or the element's bytes in `IN`, fewer where
`IN` ends. The meaning of HEADER, TIMECODE, a head or FOOTER raises `TruncatedBuffer` then. An entry's bytes have been
checked with its head; DESIGN CHOICE: in a state that no run reaches, in which they are not there, they read as 00 and
nothing is raised (log entry 33). -/
def fetchBytes (c : Cfg) (s : State) : List Byte :=
  match slotOf s with
  | .port => [BitVec.ofNat 8 s.cmd.toNat]
  | slot => spanOf (inBytes s) (elementAddr s) (slotLen c slot)

/-- The next instruction (spec/20_memory.md R63, spec/43_packet_decode.md R153, spec/60_exceptions.md R214). -/
def fetch (c : Cfg) (s : State) : Instr :=
  parseAt c (slotOf s) (fetchBytes c s)

/-- The framing state whose element stands in a slot. -/
def frameOf : Slot → FrameState
  | .port => .idle
  | .header => .header
  | .timeCode => .timeCode
  | .ccHead => .ccData
  | .ccTriplet => .ccData
  | .svcHead => .serviceInfo
  | .svcEntry => .serviceInfo
  | .footer => .footer

/-- The pending packet with a slot's element due: no head read yet, or a head of one entry. -/
def pendFor (p : Pending) : Slot → Pending
  | .port => p
  | .header => p
  | .timeCode => p
  | .ccHead => { p with cc := none }
  | .ccTriplet => { p with cc := some (1, []) }
  | .svcHead => { p with svc := none }
  | .svcEntry => { p with svc := some (1, []) }
  | .footer => p

/-- The state in which a slot's element is the next instruction and its bytes stand where it is fetched. -/
def placeWord (s : State) (slot : Slot) (bytes : List Byte) : State :=
  match slot with
  | .port => { s with cmd := BitVec.ofNat 3 (byteAt bytes 0).toNat, st := if busy s then .idle else s.st }
  | _ =>
    let s1 := { s with st := frameOf slot, pend := pendFor s.pend slot }
    let a := elementAddr s1
    { s1 with
      inMem := memWriteBytes s1.inMem a bytes
      inLen := max s1.inLen (a + bytes.length)
      n := max s1.n (a + bytes.length) }

end Sys2Proof.Machine
end

