-- ==== Sys2Proof/Machine/Operands.lean ====
section
/-! DEFINITION. Machine/Operands.lean: the element of each section an encoder writes, with the constants of `Cfg`
in its reserved fields (spec/40_bitfield_codec.md R102), and the views of registers the spec gives a second
reading (the counts, the digits of the time code, the layout of a packet). -/

namespace Sys2Proof.Machine

/-! The elements an encoder writes. -/

/-- The header ENCODE writes, with the length byte given (spec/41_section_codec.md R113). -/
def headerElOf (c : Cfg) (len : Byte) (h : HeaderRegs) : HeaderEl where
  magic := c.magic
  len := len
  fr := h.fr
  rsv := c.hdrRsv
  flags := h.flags
  flagsRsv := c.flagsRsv
  hseq := h.hseq

/-- The time-code section ENCODE writes (spec/41_section_codec.md R115). -/
def timeCodeElOf (c : Cfg) (t : TimeCode) : TimeCodeEl where
  id := c.idTimecode
  mkH := c.tcMkH
  mkM := c.tcMkM
  mkF := c.tcMkF
  tc := t

/-- The cc-data head ENCODE writes (spec/41_section_codec.md R118). -/
def ccHeadElOf (c : Cfg) (count : BitVec 5) : CountHeadEl where
  id := c.idCcdata
  marker := c.ccCountMk
  count := count

/-- The triplet ENCODE writes (spec/41_section_codec.md R119). -/
def tripletElOf (c : Cfg) (t : Triplet) : TripletEl where
  marker := c.ccMk
  t := t

/-- The service-info head ENCODE writes (spec/41_section_codec.md R122). -/
def svcHeadElOf (c : Cfg) (count : BitVec 5) : CountHeadEl where
  id := c.idSvcinfo
  marker := c.svcCountMk
  count := count

/-- The footer ENCODE writes, from the HEADER counter (spec/41_section_codec.md R125). -/
def footerElOf (c : Cfg) (hseq : Half) (cksum : Byte) : FooterEl where
  id := c.idFooter
  fseq := hseq
  cksum := cksum

/-! Views. -/

/-- The 5-bit count of a list of entries (spec/10_state.md R26, R27; log entry 19). -/
def countReg {α : Type} (l : List α) : BitVec 5 :=
  BitVec.ofNat 5 l.length

/-- `F.CC_COUNT` as its 5-bit register (spec/10_state.md R26). -/
def ccCountReg (b : Bank) : BitVec 5 :=
  BitVec.ofNat 5 b.ccCount

/-- `F.SVC_COUNT` as its 5-bit register (spec/10_state.md R27). -/
def svcCountReg (b : Bank) : BitVec 5 :=
  BitVec.ofNat 5 b.svcCount

/-- `WARN_COUNT` (spec/10_state.md R36). -/
def warnCount (s : State) : BitVec 6 :=
  BitVec.ofNat 6 s.warn.length

/-- `LAST_VALID` (spec/10_state.md R30). -/
def lastValid (s : State) : Bit :=
  tagOf s.lastSeq

/-- A numeric time-code field read as decimal digits: the low four bits are the units
(spec/10_state.md R25; general knowledge, used by no operation). -/
def bcdNat {w : Nat} (v : BitVec w) : Nat :=
  10 * (v.toNat / 16) + v.toNat % 16

/-- The meaning of a frame-rate code in frames per second, as a fraction (spec/30_encoding.md R72; general
knowledge, used by no operation). -/
def frameRateOf (fr : BitVec 4) : Option (Nat × Nat) :=
  match fr.toNat with
  | 1 => some (24000, 1001)
  | 2 => some (24, 1)
  | 3 => some (25, 1)
  | 4 => some (30000, 1001)
  | 5 => some (30, 1)
  | 6 => some (50, 1)
  | 7 => some (60000, 1001)
  | 8 => some (60, 1)
  | _ => none

/-- The bytes of a time-code member (spec/20_memory.md R58). -/
def tcSize (c : Cfg) (tc : Option TimeCode) : Nat :=
  if tc.isSome then c.tcBytes else 0

/-- The bytes of a cc-data member (spec/20_memory.md R58). -/
def ccSize (c : Cfg) (cc : Option (List Triplet)) : Nat :=
  match cc with
  | none => 0
  | some l => 2 + c.cctBytes * l.length

/-- The bytes of a service-info member (spec/20_memory.md R58). -/
def svcSize (c : Cfg) (svc : Option (List SvcEntry)) : Nat :=
  match svc with
  | none => 0
  | some l => 2 + c.svcEntryBytes * l.length

/-- The structural length of a packet (spec/20_memory.md R58, spec/44_packet_encode.md R175). -/
def pktLength (c : Cfg) (p : Pkt) : Nat :=
  c.hdrBytes + tcSize c p.tc + ccSize c p.cc + svcSize c p.svc + c.ftrBytes

/-- The offset of the footer (spec/20_memory.md R58). -/
def footerOffset (c : Cfg) (p : Pkt) : Nat :=
  c.hdrBytes + tcSize c p.tc + ccSize c p.cc + svcSize c p.svc

end Sys2Proof.Machine
end

