-- ==== Sys2Proof/Machine/Section.lean ====
section
/-! DEFINITION. Machine/Section.lean: what each wire element's decode checks and yields, and the bytes its encode
emits, over a buffer and a configuration (spec/41_section_codec.md); then the whole-packet functions of
spec/43_packet_decode.md R164 and spec/44_packet_encode.md R171 to R177. The framer's steps, the section operations
and DECODE all use the same check lists. -/

namespace Sys2Proof.Machine

/-! The checks of each element, in the order of its rule. `n` is the buffer's length, `cur` the cursor. -/

/-- `SEC.EXPECT(id)` on the identifier byte found (spec/41_section_codec.md R110). -/
def expectChecks (id found : Byte) (n cur : Nat) : List Check :=
  [.must (decide (cur + 1 ≤ n)) .truncatedBuffer n,
    .must (found == id) .unexpectedSectionId cur]

/-- `HDR.DEC` (spec/41_section_codec.md R112). -/
def hdrChecks (c : Cfg) (n : Nat) (e : HeaderEl) : List Check :=
  [.must (decide (c.hdrBytes ≤ n)) .truncatedBuffer n,
    .must (e.magic == c.magic) .invalidMagic 0,
    .must (decide (e.len.toNat ≤ n)) .truncatedBuffer n,
    .must (c.validFrameRates.contains e.fr) .invalidFrameRate 3,
    .rsv (e.rsv == c.hdrRsv) 3,
    .rsv (e.flagsRsv == c.flagsRsv) 4]

/-- `TC.DEC` (spec/41_section_codec.md R114). -/
def tcChecks (c : Cfg) (n cur : Nat) (e : TimeCodeEl) : List Check :=
  expectChecks c.idTimecode e.id n cur ++
    [.must (decide (cur + c.tcBytes ≤ n)) .truncatedBuffer n,
      .rsv (e.mkH == c.tcMkH) (cur + 1),
      .rsv (e.mkM == c.tcMkM) (cur + 2),
      .rsv (e.mkF == c.tcMkF) (cur + 4)]

/-- The head of a counted section: `CC.DEC` and `SVC.DEC`, lines 1 to 6 (spec/41_section_codec.md R116, R120).
`size` is the size of an entry and `most` the largest count. -/
def countHeadChecks (id : Byte) (mk : BitVec 3) (most size n cur : Nat) (e : CountHeadEl) : List Check :=
  expectChecks id e.id n cur ++
    [.must (decide (cur + 2 ≤ n)) .truncatedBuffer n,
      .rsv (e.marker == mk) (cur + 1),
      .must (decide (e.count.toNat ≤ most)) .countOverflow (cur + 1),
      .must (decide (cur + 2 + size * e.count.toNat ≤ n)) .truncatedBuffer n]

/-- The head of the cc-data section (spec/41_section_codec.md R116). -/
def ccHeadChecks (c : Cfg) (n cur : Nat) (e : CountHeadEl) : List Check :=
  countHeadChecks c.idCcdata c.ccCountMk c.ccCountMax c.cctBytes n cur e

/-- The head of the service-info section (spec/41_section_codec.md R120). -/
def svcHeadChecks (c : Cfg) (n cur : Nat) (e : CountHeadEl) : List Check :=
  countHeadChecks c.idSvcinfo c.svcCountMk c.svcCountMax c.svcEntryBytes n cur e

/-- `CCT.DEC` at offset `o` (spec/41_section_codec.md R117). -/
def tripletChecks (c : Cfg) (o : Nat) (e : TripletEl) : List Check :=
  [.rsv (e.marker == c.ccMk) o]

/-- `FTR.DEC` (spec/41_section_codec.md R124). -/
def ftrChecks (c : Cfg) (n cur : Nat) (e : FooterEl) : List Check :=
  expectChecks c.idFooter e.id n cur ++
    [.must (decide (cur + c.ftrBytes ≤ n)) .truncatedBuffer n]

/-- The three comparisons of state Footer, on the consumed span's sum and length
(spec/43_packet_decode.md R157, R158, R159). -/
def packetChecks (cur consumed : Nat) (sum : Byte) (h : HeaderRegs) (e : FooterEl) : List Check :=
  [.must (e.fseq == h.hseq) .sequenceMismatch (cur + 1),
    .must (sum == 0) .checksumMismatch (consumed - 1),
    .must (consumed == h.len.toNat) .lengthMismatch 2]

/-! What each decode yields. A result comes with the warning list afterwards. -/

/-- The header registers of a header element (spec/41_section_codec.md R112, result line). -/
def hdrRegsOf (c : Cfg) (e : HeaderEl) : HeaderRegs where
  id := c.magic
  len := e.len
  fr := e.fr
  flags := e.flags
  hseq := e.hseq

/-- A result, when its checks pass. -/
def yield {α : Type} (m : Mode) (w : List Nat) (cs : List Check) (a : α) : Except Raise (α × List Nat) :=
  match runChecks m w cs with
  | .error r => .error r
  | .ok w' => .ok (a, w')

/-- `HDR.DEC` (spec/41_section_codec.md R112). -/
def hdrDecOf (c : Cfg) (m : Mode) (w : List Nat) (buf : List Byte) : Except Raise (HeaderRegs × List Nat) :=
  let e := parseHeader (spanOf buf 0 c.hdrBytes)
  yield m w (hdrChecks c buf.length e) (hdrRegsOf c e)

/-- `TC.DEC` at `cur` (spec/41_section_codec.md R114). -/
def tcDecOf (c : Cfg) (m : Mode) (w : List Nat) (buf : List Byte) (cur : Nat) :
    Except Raise (TimeCode × List Nat) :=
  let e := parseTimeCode (spanOf buf cur c.tcBytes)
  yield m w (tcChecks c buf.length cur e) e.tc

/-- `CCT.DEC` at `o` (spec/41_section_codec.md R117). -/
def cctDecOf (c : Cfg) (m : Mode) (w : List Nat) (buf : List Byte) (o : Nat) :
    Except Raise (Triplet × List Nat) :=
  let e := parseTriplet (spanOf buf o c.cctBytes)
  yield m w (tripletChecks c o e) e.t

/-- A failed decode: the failure, and where the cursor stood: at the start of the wire element that failed
(spec/10_state.md R33; log entry 15). -/
structure Abort where
  raised : Raise
  cur : Nat
deriving DecidableEq, Repr

/-- The decode of one wire element: its failure leaves the cursor at the element's start. -/
def atCur {α : Type} (cur : Nat) (x : Except Raise α) : Except Abort α :=
  match x with
  | .error r => .error ⟨r, cur⟩
  | .ok a => .ok a

/-- The failure alone. -/
def raisedOf {α : Type} (x : Except Abort α) : Except Raise α :=
  match x with
  | .error a => .error a.raised
  | .ok a => .ok a

/-- The triplets from offset `o` on, `k` of them (spec/41_section_codec.md R116 line 7). -/
def tripletsOf (c : Cfg) (m : Mode) (buf : List Byte) : Nat → Nat → List Nat → Except Abort (List Triplet × List Nat)
  | 0, _, w => .ok ([], w)
  | k + 1, o, w =>
    match atCur o (cctDecOf c m w buf o) with
    | .error a => .error a
    | .ok (t, w1) =>
      match tripletsOf c m buf k (o + c.cctBytes) w1 with
      | .error a => .error a
      | .ok (ts, w2) => .ok (t :: ts, w2)

/-- The cc-data section at `cur`, element by element (spec/41_section_codec.md R116). -/
def ccSectionOf (c : Cfg) (m : Mode) (w : List Nat) (buf : List Byte) (cur : Nat) :
    Except Abort (List Triplet × List Nat) :=
  let e := parseCountHead (spanOf buf cur 2)
  match atCur cur (runChecks m w (ccHeadChecks c buf.length cur e)) with
  | .error a => .error a
  | .ok w1 => tripletsOf c m buf e.count.toNat (cur + 2) w1

/-- `CC.DEC` at `cur` (spec/41_section_codec.md R116). -/
def ccDecOf (c : Cfg) (m : Mode) (w : List Nat) (buf : List Byte) (cur : Nat) :
    Except Raise (List Triplet × List Nat) :=
  raisedOf (ccSectionOf c m w buf cur)

/-- `SVE.DEC` at `o` (spec/41_section_codec.md R121). -/
def sveDecOf (c : Cfg) (buf : List Byte) (o : Nat) : SvcEntry :=
  parseSvcEntry c (spanOf buf o c.svcEntryBytes)

/-- The service entries from offset `o` on, `k` of them (spec/41_section_codec.md R120 line 7). -/
def entriesOf (c : Cfg) (buf : List Byte) : Nat → Nat → List SvcEntry
  | 0, _ => []
  | k + 1, o => sveDecOf c buf o :: entriesOf c buf k (o + c.svcEntryBytes)

/-- `SVC.DEC` at `cur` (spec/41_section_codec.md R120). -/
def svcDecOf (c : Cfg) (m : Mode) (w : List Nat) (buf : List Byte) (cur : Nat) :
    Except Raise (List SvcEntry × List Nat) :=
  let e := parseCountHead (spanOf buf cur 2)
  yield m w (svcHeadChecks c buf.length cur e) (entriesOf c buf e.count.toNat (cur + 2))

/-- `FTR.DEC` at `cur` (spec/41_section_codec.md R124). -/
def ftrDecOf (c : Cfg) (m : Mode) (w : List Nat) (buf : List Byte) (cur : Nat) :
    Except Raise (FooterEl × List Nat) :=
  let e := parseFooter (spanOf buf cur c.ftrBytes)
  yield m w (ftrChecks c buf.length cur e) e

/-! The whole packet, decoded. -/

/-- A `Done` decode (spec/43_packet_decode.md R160, R164). -/
structure Decoded where
  pkt : Pkt
  consumed : Nat
  warn : List Nat
deriving DecidableEq, Repr

/-- A section that its gating flag calls for, or nothing (spec/43_packet_decode.md R154 to R156). -/
def optional {α : Type} (present : Bit) (w : List Nat) (x : Except Abort (α × List Nat)) :
    Except Abort (Option α × List Nat) :=
  if present = 1 then
    match x with
    | .error r => .error r
    | .ok (a, w') => .ok (some a, w')
  else .ok (none, w)

/-- The state Footer: `FTR.DEC`, then the counter, the checksum over the consumed span and the length
(spec/43_packet_decode.md R157 to R160). -/
def footerOf (c : Cfg) (m : Mode) (w : List Nat) (buf : List Byte) (cur : Nat) (h : HeaderRegs)
    (tc : Option TimeCode) (cc : Option (List Triplet)) (svc : Option (List SvcEntry)) : Except Raise Decoded :=
  match ftrDecOf c m w buf cur with
  | .error r => .error r
  | .ok (e, w1) =>
    match runChecks m w1 (packetChecks cur (cur + c.ftrBytes) (sum8 (spanOf buf 0 (cur + c.ftrBytes))) h e) with
    | .error r => .error r
    | .ok w2 => .ok ⟨⟨h, tc, cc, svc, e.fseq, e.cksum⟩, cur + c.ftrBytes, w2⟩

/-- DECODE as one function (spec/43_packet_decode.md R164). -/
def decodePacket (c : Cfg) (m : Mode) (buf : List Byte) : Except Abort Decoded :=
  match atCur 0 (hdrDecOf c m [] buf) with
  | .error a => .error a
  | .ok (h, w0) =>
    let c1 := c.hdrBytes
    match optional h.flags.tc w0 (atCur c1 (tcDecOf c m w0 buf c1)) with
    | .error a => .error a
    | .ok (tc, w1) =>
      let c2 := c1 + tcSize c tc
      match optional h.flags.cc w1 (ccSectionOf c m w1 buf c2) with
      | .error a => .error a
      | .ok (cc, w2) =>
        let c3 := c2 + ccSize c cc
        match optional h.flags.svc w2 (atCur c3 (svcDecOf c m w2 buf c3)) with
        | .error a => .error a
        | .ok (svc, w3) =>
          let c4 := c3 + svcSize c svc
          atCur c4 (footerOf c m w3 buf c4 h tc cc svc)

/-! The bytes each encode emits. -/

/-- `HDR.ENC`, with a placeholder in the length byte (spec/41_section_codec.md R113). -/
def hdrEncOf (c : Cfg) (h : HeaderRegs) : List Byte :=
  encodeHeader (headerElOf c 0 h)

/-- `TC.ENC` (spec/41_section_codec.md R115). -/
def tcEncOf (c : Cfg) (t : TimeCode) : List Byte :=
  encodeTimeCode (timeCodeElOf c t)

/-- `CCT.ENC` (spec/41_section_codec.md R119). -/
def cctEncOf (c : Cfg) (t : Triplet) : List Byte :=
  encodeTriplet (tripletElOf c t)

/-- `CC.ENC` (spec/41_section_codec.md R118). -/
def ccEncOf (c : Cfg) (l : List Triplet) : List Byte :=
  encodeCountHead (ccHeadElOf c (countReg l)) ++ l.flatMap (cctEncOf c)

/-- `SVE.ENC` (spec/41_section_codec.md R123). -/
def sveEncOf (c : Cfg) (e : SvcEntry) : List Byte :=
  encodeSvcEntry c e

/-- `SVC.ENC` (spec/41_section_codec.md R122). -/
def svcEncOf (c : Cfg) (l : List SvcEntry) : List Byte :=
  encodeCountHead (svcHeadElOf c (countReg l)) ++ l.flatMap (sveEncOf c)

/-- `FTR.ENC`, without the checksum byte (spec/41_section_codec.md R125). -/
def ftrEncOf (c : Cfg) (hseq : Half) : List Byte :=
  encodeFooterHead (footerElOf c hseq 0)

/-- The bytes of an optional member, none when it is absent. -/
def optBytes {α : Type} (o : Option α) (f : α → List Byte) : List Byte :=
  match o with
  | none => []
  | some a => f a

/-! The whole packet, encoded. -/

/-- Tag and gating flag agree (spec/44_packet_encode.md R172). -/
def flagsConsistent (p : Pkt) : Bool :=
  p.hdr.flags.tc == tagOf p.tc && p.hdr.flags.cc == tagOf p.cc && p.hdr.flags.svc == tagOf p.svc

/-- A member's count within its maximum (spec/44_packet_encode.md R174). -/
def countFits {α : Type} (o : Option (List α)) (most : Nat) : Bool :=
  match o with
  | none => true
  | some l => decide (l.length ≤ most)

/-- The checks of ENCODE in their order (spec/44_packet_encode.md R171 to R175). -/
def encodeChecks (c : Cfg) (p : Pkt) : List Check :=
  [.must (flagsConsistent p) .inconsistentFlags 0,
    .must (c.validFrameRates.contains p.hdr.fr) .invalidFrameRate 0,
    .must (countFits p.cc c.ccCountMax) .countOverflow 0,
    .must (countFits p.svc c.svcCountMax) .countOverflow 0,
    .must (decide (pktLength c p ≤ c.lenMax)) .countOverflow 0]

/-- The composition in section order, the length byte still a placeholder (spec/44_packet_encode.md R176). -/
def composeBody (c : Cfg) (p : Pkt) : List Byte :=
  hdrEncOf c p.hdr ++ optBytes p.tc (tcEncOf c) ++ optBytes p.cc (ccEncOf c) ++ optBytes p.svc (svcEncOf c) ++
    ftrEncOf c p.hdr.hseq

/-- The final steps: the length byte patched, then the checksum of everything before it appended
(spec/44_packet_encode.md R177). -/
def sealPacket (body : List Byte) : List Byte :=
  let patched := body.set 2 (BitVec.ofNat 8 (body.length + 1))
  patched ++ [ckComputeOf patched]

/-- ENCODE as one function (spec/44_packet_encode.md R171 to R177). ENCODE does not consult `MODE`; its checks hold
no reserved field, so the policy given here is without effect. -/
def encodePacket (c : Cfg) (p : Pkt) : Except Raise (List Byte) :=
  match runChecks .strict [] (encodeChecks c p) with
  | .error r => .error r
  | .ok _ => .ok (sealPacket (composeBody c p))

end Sys2Proof.Machine
end

