-- ==== Sys2Proof/Machine/Command.lean ====
section
/-! DEFINITION. Machine/Command.lean: the meanings of the host commands (spec/30_encoding.md R90). Each is one
atomic transition (spec/60_exceptions.md R214); offered while an operation runs it has no effect. -/

namespace Sys2Proof.Machine

/-- DECODE under a configuration (spec/43_packet_decode.md R150, R164): the start, then `Done` with the packet or
`Failed` with the kind and offset. -/
def commandDecode (c : Cfg) (s : State) : Out :=
  let s0 := startDecode c s
  let buf := inBytes s0
  match decodePacket c s0.modeSample buf with
  | .error a => .next (raiseDecode c { s0 with cur := a.cur } a.raised)
  | .ok d => .next (finishDecode c s0 d.pkt d.consumed (sum8 (spanOf buf 0 d.consumed)) d.warn)

/-- The end of an ENCODE (spec/44_packet_encode.md R170): `Failed` with the kind, or `Done` with the packet. -/
def endEncode (c : Cfg) (s : State) (x : Except Raise (List Byte)) : State :=
  match x with
  | .error r => failEncode c s r
  | .ok bytes => finishEncode s bytes

/-- ENCODE under a configuration (spec/44_packet_encode.md R170 to R178): the start, then `Done` with `OUT` or `Failed`
with the kind. It is total: registers that nothing has written hold free values, and the host has no move that gives
it such registers (spec/70_reset_and_hazards.md R233, `issue`; log entry 3). -/
def commandEncode (c : Cfg) (s : State) : Out :=
  .next (endEncode c (startEncode s) (encodePacket c (bankPkt c s.f)))

/-- NOP: no state changes at all (spec/60_exceptions.md R215). -/
def execNop (s : State) : Out :=
  .next s

/-- DECODE (spec/43_packet_decode.md R150). -/
def execDecode (s : State) : Out :=
  whenReady s (commandDecode cfg s)

/-- ENCODE (spec/44_packet_encode.md R170). -/
def execEncode (s : State) : Out :=
  whenReady s (commandEncode cfg s)

/-- CK_COMPUTE over the whole input buffer; `st` becomes `Done` (spec/42_checksum_engine.md R142). -/
def execCkCompute (s : State) : Out :=
  whenReady s (.next (markDone (finishChecksum s (ckComputeOf (operandBytes s)))))

/-- CK_VALIDATE over the whole input buffer; `st` stays (spec/42_checksum_engine.md R143). -/
def execCkValidate (s : State) : Out :=
  whenReady s (.next (finishChecksum s (ckValidateOf (operandBytes s))))

/-- SEQ_OBSERVE (spec/45_sequence_tracker.md R191). -/
def execSeqObserve (s : State) : Out :=
  whenReady s (.next (observe s))

/-- SEQ_RESET (spec/45_sequence_tracker.md R195). -/
def execSeqReset (s : State) : Out :=
  whenReady s (.next (forgetLast s))

/-- The reserved code 7: refused (spec/30_encoding.md R91). -/
def execReservedCmd7 (_s : State) : Out :=
  .refused .reservedCommand

end Sys2Proof.Machine
end

