-- ==== Sys2Proof/Machine/BitFieldOps.lean ====
section
/-! DEFINITION. Machine/BitFieldOps.lean: the meanings of the bit-field codec's operations
(spec/40_bitfield_codec.md). -/

namespace Sys2Proof.Machine

/-- An internal operation's checks under the policy in force, then what it does when they pass. A raise leaves what a
failed DECODE leaves, also where none runs (log entry 32). -/
def checkStep (c : Cfg) (s : State) (cs : List Check) (k : List Nat → State) : Out :=
  match runChecks (effMode s) s.warn cs with
  | .error r => .next (raiseDecode c s r)
  | .ok w => .next (k w)

/-- An internal operation acts only on the operands its rule names (log entry 21). -/
def withinContract (ok : Bool) (out : Out) : Out :=
  if ok then out else .refused .outsideContract

/-- BF.EXTRACT (spec/40_bitfield_codec.md R101). -/
def execBfExtract (span : List Byte) (hi lo : Nat) (s : State) : Out :=
  withinContract (wfExtract span hi lo) <|
    .next (handBack s s.warn (.value (bfExtract span hi lo)))

/-- BF.PACK (spec/40_bitfield_codec.md R102). -/
def execBfPack (k : Nat) (fields : List FieldVal) (s : State) : Out :=
  withinContract (wfPack k fields) <|
    .next (handBack s s.warn (.span (bfPack k fields)))

/-- BF.CHKRSV under a configuration (spec/40_bitfield_codec.md R103; outside a DECODE log entries 27, 32). -/
def bitChkrsv (c : Cfg) (span : List Byte) (hi lo const off : Nat) (s : State) : Out :=
  withinContract (wfChkrsv span hi lo const) <|
    checkStep c s [.rsv (bfExtract span hi lo == const) off] fun w => { s with warn := w }

/-- BF.CHKRSV (spec/40_bitfield_codec.md R103). -/
def execBfChkrsv (span : List Byte) (hi lo const off : Nat) (s : State) : Out :=
  bitChkrsv cfg span hi lo const off s

end Sys2Proof.Machine
end

