-- ==== Sys2Proof/Machine/SectionOps.lean ====
section
/-! DEFINITION. Machine/SectionOps.lean: the meanings of the section codecs' operations (spec/41_section_codec.md).
A decode reads `IN` at the cursor and hands its caller the section's body and `bytes_consumed` (R111); moving the
cursor and the framing state is the caller's. An encode appends to `OUT`. Each operation stands under a configuration
first, then under the default one. An encode runs on whatever the registers of `F` hold; those nothing has written
hold free values (log entry 3). -/

namespace Sys2Proof.Machine

/-- The end of a section decode: its failure, which leaves what a failed DECODE leaves, also where none runs (log entry
32), or its result handed back with the warnings. -/
def decStep {α : Type} (c : Cfg) (s : State) (x : Except Raise (α × List Nat)) (ret : α → Ret) : Out :=
  match x with
  | .error r => .next (raiseDecode c s r)
  | .ok (a, w) => .next (handBack s w (ret a))

/-- SEC.EXPECT under a configuration (spec/41_section_codec.md R110): the cursor is not moved. -/
def sectionExpect (c : Cfg) (id : Byte) (s : State) : Out :=
  checkStep c s (expectChecks id (byteAt (spanOf (inBytes s) s.cur 1) 0) s.n s.cur) fun w => { s with warn := w }

/-- HDR.DEC under a configuration (spec/41_section_codec.md R112). -/
def sectionHdrDec (c : Cfg) (s : State) : Out :=
  decStep c s (hdrDecOf c (effMode s) s.warn (inBytes s)) fun h => .header h c.hdrBytes

/-- HDR.ENC under a configuration (spec/41_section_codec.md R113). -/
def sectionHdrEnc (c : Cfg) (s : State) : Out :=
  .next (emit s (hdrEncOf c s.f.hdr))

/-- TC.DEC under a configuration (spec/41_section_codec.md R114). -/
def sectionTcDec (c : Cfg) (s : State) : Out :=
  decStep c s (tcDecOf c (effMode s) s.warn (inBytes s) s.cur) fun t => .timeCode t c.tcBytes

/-- TC.ENC under a configuration (spec/41_section_codec.md R115). -/
def sectionTcEnc (c : Cfg) (s : State) : Out :=
  .next (emit s (tcEncOf c s.f.tc))

/-- CC.DEC under a configuration (spec/41_section_codec.md R116). -/
def sectionCcDec (c : Cfg) (s : State) : Out :=
  decStep c s (ccDecOf c (effMode s) s.warn (inBytes s) s.cur) fun l => .ccData l (2 + c.cctBytes * l.length)

/-- CC.ENC under a configuration (spec/41_section_codec.md R118), of a file ENCODE would not refuse
(spec/44_packet_encode.md R174). -/
def sectionCcEnc (c : Cfg) (s : State) : Out :=
  withinContract (decide (s.f.ccCount ≤ c.ccCountMax)) (.next (emit s (ccEncOf c (ccEntries s.f))))

/-- CCT.DEC under a configuration, at offset `o`, known to have its bytes (spec/41_section_codec.md R117). -/
def sectionCctDec (c : Cfg) (o : Nat) (s : State) : Out :=
  withinContract (decide (o + c.cctBytes ≤ s.n)) <|
    decStep c s (cctDecOf c (effMode s) s.warn (inBytes s) o) fun t => .triplet t

/-- CCT.ENC under a configuration, of one entry (spec/41_section_codec.md R119). -/
def sectionCctEnc (c : Cfg) (t : Triplet) (s : State) : Out :=
  .next (emit s (cctEncOf c t))

/-- SVC.DEC under a configuration (spec/41_section_codec.md R120). -/
def sectionSvcDec (c : Cfg) (s : State) : Out :=
  decStep c s (svcDecOf c (effMode s) s.warn (inBytes s) s.cur) fun l => .svcInfo l (2 + c.svcEntryBytes * l.length)

/-- SVC.ENC under a configuration (spec/41_section_codec.md R122), of a file ENCODE would not refuse
(spec/44_packet_encode.md R174). -/
def sectionSvcEnc (c : Cfg) (s : State) : Out :=
  withinContract (decide (s.f.svcCount ≤ c.svcCountMax)) (.next (emit s (svcEncOf c (svcEntries c s.f))))

/-- SVE.DEC under a configuration, at offset `o`, known to have its bytes (spec/41_section_codec.md R121). -/
def sectionSveDec (c : Cfg) (o : Nat) (s : State) : Out :=
  withinContract (decide (o + c.svcEntryBytes ≤ s.n)) <|
    .next (handBack s s.warn (.entry (sveDecOf c (inBytes s) o)))

/-- SVE.ENC under a configuration, of one entry (spec/41_section_codec.md R123). -/
def sectionSveEnc (c : Cfg) (e : SvcEntry) (s : State) : Out :=
  withinContract (wfSvcEntry c e) (.next (emit s (sveEncOf c e)))

/-- FTR.DEC under a configuration (spec/41_section_codec.md R124). -/
def sectionFtrDec (c : Cfg) (s : State) : Out :=
  decStep c s (ftrDecOf c (effMode s) s.warn (inBytes s) s.cur) fun e => .footer e.fseq e.cksum c.ftrBytes

/-- FTR.ENC under a configuration (spec/41_section_codec.md R125): the counter is `F.HSEQ`. -/
def sectionFtrEnc (c : Cfg) (s : State) : Out :=
  .next (emit s (ftrEncOf c s.f.hdr.hseq))

/-- SEC.EXPECT (spec/41_section_codec.md R110). -/
def execSecExpect (id : Byte) (s : State) : Out :=
  sectionExpect cfg id s

/-- HDR.DEC (spec/41_section_codec.md R112). -/
def execHdrDec (s : State) : Out :=
  sectionHdrDec cfg s

/-- HDR.ENC (spec/41_section_codec.md R113). -/
def execHdrEnc (s : State) : Out :=
  sectionHdrEnc cfg s

/-- TC.DEC (spec/41_section_codec.md R114). -/
def execTcDec (s : State) : Out :=
  sectionTcDec cfg s

/-- TC.ENC (spec/41_section_codec.md R115). -/
def execTcEnc (s : State) : Out :=
  sectionTcEnc cfg s

/-- CC.DEC (spec/41_section_codec.md R116). -/
def execCcDec (s : State) : Out :=
  sectionCcDec cfg s

/-- CC.ENC (spec/41_section_codec.md R118). -/
def execCcEnc (s : State) : Out :=
  sectionCcEnc cfg s

/-- CCT.DEC (spec/41_section_codec.md R117). -/
def execCctDec (o : Nat) (s : State) : Out :=
  sectionCctDec cfg o s

/-- CCT.ENC (spec/41_section_codec.md R119). -/
def execCctEnc (t : Triplet) (s : State) : Out :=
  sectionCctEnc cfg t s

/-- SVC.DEC (spec/41_section_codec.md R120). -/
def execSvcDec (s : State) : Out :=
  sectionSvcDec cfg s

/-- SVC.ENC (spec/41_section_codec.md R122). -/
def execSvcEnc (s : State) : Out :=
  sectionSvcEnc cfg s

/-- SVE.DEC (spec/41_section_codec.md R121). -/
def execSveDec (o : Nat) (s : State) : Out :=
  sectionSveDec cfg o s

/-- SVE.ENC (spec/41_section_codec.md R123). -/
def execSveEnc (e : SvcEntry) (s : State) : Out :=
  sectionSveEnc cfg e s

/-- FTR.DEC (spec/41_section_codec.md R124). -/
def execFtrDec (s : State) : Out :=
  sectionFtrDec cfg s

/-- FTR.ENC (spec/41_section_codec.md R125). -/
def execFtrEnc (s : State) : Out :=
  sectionFtrEnc cfg s

end Sys2Proof.Machine
end

