-- ==== Sys2Proof/Machine/Wire.lean ====
section
/-! DEFINITION. Machine/Wire.lean: the meanings of the seven wire elements. A wire element steers the framer as an
instruction steers a processor (spec/20_memory.md R63): in the framing state in which it is due, the framer
examines it, holds its fields as pending, moves the cursor and goes to the next framing state
(spec/43_packet_decode.md R152 to R161). Its checks include the availability of its own bytes in `IN`, but for an
entry, whose bytes its section's head has checked (log entry 33). -/

namespace Sys2Proof.Machine

/-- The framer's step on the element due: its checks under the sampled policy, then what it does when they pass. -/
def frameStep (c : Cfg) (s : State) (cs : List Check) (k : State → State) : Out :=
  match runChecks s.modeSample s.warn cs with
  | .error r => .next (raiseDecode c s r)
  | .ok w => .next (k { s with warn := w })

/-- An element is examined only in the framing state and slot in which it is due (spec/43_packet_decode.md R153). -/
def whenDue (s : State) (slot : Slot) (out : Out) : Out :=
  if slotOf s = slot then out else .refused .elementNotDue

/-- Leave framing state `st` with the cursor at `cur` (spec/43_packet_decode.md R153). -/
def advance (s : State) (cur : Nat) (st : FrameState) : State :=
  { s with cur := cur, st := nextFrame s.pend.hdr.flags st }

/-- Hold the header and leave state Header (spec/43_packet_decode.md R152). -/
def takeHeader (c : Cfg) (s : State) (h : HeaderRegs) : State :=
  advance { s with pend := { s.pend with hdr := h } } c.hdrBytes .header

/-- Hold the time code and leave state TimeCode (spec/43_packet_decode.md R154). -/
def takeTimeCode (c : Cfg) (s : State) (t : TimeCode) : State :=
  advance { s with pend := { s.pend with tc := some t } } (s.cur + c.tcBytes) .timeCode

/-- Hold the cc count and the triplets read so far, with the cursor behind the element just read; leave state CcData
once all are read (spec/10_state.md R33, spec/43_packet_decode.md R155, spec/41_section_codec.md R116). -/
def takeTriplets (s : State) (cur : Nat) (cnt : BitVec 5) (l : List Triplet) : State :=
  let s1 := { s with pend := { s.pend with cc := some (cnt, l) }, cur := cur }
  if cnt.toNat ≤ l.length then advance s1 cur .ccData else s1

/-- Hold the service count and the entries read so far, with the cursor behind the element just read; leave state
ServiceInfo once all are read (spec/10_state.md R33, spec/43_packet_decode.md R156, spec/41_section_codec.md R120). -/
def takeEntries (s : State) (cur : Nat) (cnt : BitVec 5) (l : List SvcEntry) : State :=
  let s1 := { s with pend := { s.pend with svc := some (cnt, l) }, cur := cur }
  if cnt.toNat ≤ l.length then advance s1 cur .serviceInfo else s1

/-- The packet record of the pending packet and the footer (spec/43_packet_decode.md R160). -/
def pendPkt (p : Pending) (e : FooterEl) : Pkt where
  hdr := p.hdr
  tc := p.tc
  cc := p.cc.map Prod.snd
  svc := p.svc.map Prod.snd
  fseq := e.fseq
  cksum := e.cksum

/-- HEADER under a configuration (spec/43_packet_decode.md R152). -/
def wireHeader (c : Cfg) (e : HeaderEl) (s : State) : Out :=
  whenDue s .header <|
    frameStep c s (hdrChecks c s.n e) fun s => takeHeader c s (hdrRegsOf c e)

/-- TIMECODE under a configuration (spec/43_packet_decode.md R154). -/
def wireTimecode (c : Cfg) (e : TimeCodeEl) (s : State) : Out :=
  whenDue s .timeCode <|
    frameStep c s (tcChecks c s.n s.cur e) fun s => takeTimeCode c s e.tc

/-- CCDATA_HEAD under a configuration (spec/43_packet_decode.md R155, spec/41_section_codec.md R116 lines 1 to 6). -/
def wireCcdataHead (c : Cfg) (e : CountHeadEl) (s : State) : Out :=
  whenDue s .ccHead <|
    frameStep c s (ccHeadChecks c s.n s.cur e) fun s => takeTriplets s (s.cur + 2) e.count []

/-- CC_TRIPLET under a configuration: the next entry of the section (spec/41_section_codec.md R116 line 7, R117), its
bytes presumed there; where they are not, log entry 33. -/
def wireCcTriplet (c : Cfg) (e : TripletEl) (s : State) : Out :=
  whenDue s .ccTriplet <|
    frameStep c s (tripletChecks c s.cur e) fun s =>
      takeTriplets s (s.cur + c.cctBytes) ((s.pend.cc.map Prod.fst).getD 0) ((s.pend.cc.map Prod.snd).getD [] ++ [e.t])

/-- SVCINFO_HEAD under a configuration (spec/43_packet_decode.md R156, spec/41_section_codec.md R120 lines 1 to 6). -/
def wireSvcinfoHead (c : Cfg) (e : CountHeadEl) (s : State) : Out :=
  whenDue s .svcHead <|
    frameStep c s (svcHeadChecks c s.n s.cur e) fun s => takeEntries s (s.cur + 2) e.count []

/-- SVC_ENTRY under a configuration: the next entry of the section; it has no marker and cannot fail
(spec/41_section_codec.md R120 line 7, R121), its bytes presumed there; where they are not, log entry 33. -/
def wireSvcEntry (c : Cfg) (e : SvcEntry) (s : State) : Out :=
  whenDue s .svcEntry <|
    frameStep c s [] fun s =>
      takeEntries s (s.cur + c.svcEntryBytes) ((s.pend.svc.map Prod.fst).getD 0) ((s.pend.svc.map Prod.snd).getD [] ++ [e])

/-- FOOTER under a configuration: the counter, the checksum over the consumed span, the length, then `Done`
(spec/43_packet_decode.md R157 to R160). -/
def wireFooter (c : Cfg) (e : FooterEl) (s : State) : Out :=
  let consumed := s.cur + c.ftrBytes
  let sum := sum8 (spanOf (inBytes s) 0 consumed)
  whenDue s .footer <|
    frameStep c s (ftrChecks c s.n s.cur e ++ packetChecks s.cur consumed sum s.pend.hdr e) fun s =>
      finishDecode c s (pendPkt s.pend e) consumed sum s.warn

/-- HEADER (spec/30_encoding.md R71 to R73, spec/43_packet_decode.md R152). -/
def execHeader (e : HeaderEl) (s : State) : Out :=
  wireHeader cfg e s

/-- TIMECODE (spec/30_encoding.md R75, spec/43_packet_decode.md R154). -/
def execTimecode (e : TimeCodeEl) (s : State) : Out :=
  wireTimecode cfg e s

/-- CCDATA_HEAD (spec/30_encoding.md R76, spec/43_packet_decode.md R155). -/
def execCcdataHead (e : CountHeadEl) (s : State) : Out :=
  wireCcdataHead cfg e s

/-- CC_TRIPLET (spec/30_encoding.md R77, spec/41_section_codec.md R117). -/
def execCcTriplet (e : TripletEl) (s : State) : Out :=
  wireCcTriplet cfg e s

/-- SVCINFO_HEAD (spec/30_encoding.md R78, spec/43_packet_decode.md R156). -/
def execSvcinfoHead (e : CountHeadEl) (s : State) : Out :=
  wireSvcinfoHead cfg e s

/-- SVC_ENTRY (spec/30_encoding.md R79, spec/41_section_codec.md R121). -/
def execSvcEntry (e : SvcEntry) (s : State) : Out :=
  wireSvcEntry cfg e s

/-- FOOTER (spec/30_encoding.md R80, spec/43_packet_decode.md R157 to R160). -/
def execFooter (e : FooterEl) (s : State) : Out :=
  wireFooter cfg e s

end Sys2Proof.Machine
end

