-- ==== Sys2Proof/Machine/Dispatch.lean ====
section
/-! DEFINITION. Machine/Dispatch.lean: exec, one arm per constructor of Instr, each one call of its meaning. -/

namespace Sys2Proof.Machine

def exec (i : Instr) (s : State) : Host.Outcome State Fault Refusal :=
  match i with
  | .header e => Sys2Proof.Machine.execHeader e s
  | .timecode e => Sys2Proof.Machine.execTimecode e s
  | .ccdataHead e => Sys2Proof.Machine.execCcdataHead e s
  | .ccTriplet e => Sys2Proof.Machine.execCcTriplet e s
  | .svcinfoHead e => Sys2Proof.Machine.execSvcinfoHead e s
  | .svcEntry e => Sys2Proof.Machine.execSvcEntry e s
  | .footer e => Sys2Proof.Machine.execFooter e s
  | .nop => Sys2Proof.Machine.execNop s
  | .decode => Sys2Proof.Machine.execDecode s
  | .encode => Sys2Proof.Machine.execEncode s
  | .ckCompute => Sys2Proof.Machine.execCkCompute s
  | .ckValidate => Sys2Proof.Machine.execCkValidate s
  | .seqObserve => Sys2Proof.Machine.execSeqObserve s
  | .seqReset => Sys2Proof.Machine.execSeqReset s
  | .reservedCmd7 => Sys2Proof.Machine.execReservedCmd7 s
  | .bfExtract span hi lo => Sys2Proof.Machine.execBfExtract span hi lo s
  | .bfPack k fields => Sys2Proof.Machine.execBfPack k fields s
  | .bfChkrsv span hi lo const off => Sys2Proof.Machine.execBfChkrsv span hi lo const off s
  | .secExpect id => Sys2Proof.Machine.execSecExpect id s
  | .hdrDec => Sys2Proof.Machine.execHdrDec s
  | .hdrEnc => Sys2Proof.Machine.execHdrEnc s
  | .tcDec => Sys2Proof.Machine.execTcDec s
  | .tcEnc => Sys2Proof.Machine.execTcEnc s
  | .ccDec => Sys2Proof.Machine.execCcDec s
  | .ccEnc => Sys2Proof.Machine.execCcEnc s
  | .cctDec o => Sys2Proof.Machine.execCctDec o s
  | .cctEnc t => Sys2Proof.Machine.execCctEnc t s
  | .svcDec => Sys2Proof.Machine.execSvcDec s
  | .svcEnc => Sys2Proof.Machine.execSvcEnc s
  | .sveDec o => Sys2Proof.Machine.execSveDec o s
  | .sveEnc e => Sys2Proof.Machine.execSveEnc e s
  | .ftrDec => Sys2Proof.Machine.execFtrDec s
  | .ftrEnc => Sys2Proof.Machine.execFtrEnc s

end Sys2Proof.Machine
end

