-- ==== Sys2Proof/Machine/Step.lean ====
section
/-! DEFINITION. Machine/Step.lean: one step: run the next instruction. While no operation runs that is the command on
the port; while a decode runs it is the wire element at the cursor (log entry 1). -/

namespace Sys2Proof.Machine

/-- One step of the block: fetch the instruction that is due and run it. -/
def step (s : State) : Host.Outcome State Fault Refusal :=
  exec (fetch cfg s) s

/-- The instruction of an opcode-table word placed where `step` fetches its next instruction: a command's code on
the port, a wire element's bytes at the cursor with its framing state (log entry 16). A word the decoder refuses
changes nothing. -/
def State.withFetchWord (s : State) (nbits w : Nat) : State :=
  match decodeTableSlot nbits w with
  | none => s
  | some (slot, _) => placeWord s slot (tableBytes nbits w)

end Sys2Proof.Machine
end

