-- ==== Sys2Proof/Machine/With.lean ====
section
/-! DEFINITION. Machine/With.lean: every meaning, and one step, under ANY configuration record: what a claim that
quantifies over `Cfg` is about (spec/00_scope.md R7, spec/10_state.md R20). `exec` and `step` are these at the default
configuration (`exec_eq_execWith`, `step_eq_stepWith` in Laws/With.lean). -/

namespace Sys2Proof.Machine

/-- The meaning of an instruction under a configuration. BF.EXTRACT, BF.PACK and the commands that are not a
codec's read no constant of it. -/
def execWith (c : Cfg) (i : Instr) (s : State) : Out :=
  match i with
  | .header e => wireHeader c e s
  | .timecode e => wireTimecode c e s
  | .ccdataHead e => wireCcdataHead c e s
  | .ccTriplet e => wireCcTriplet c e s
  | .svcinfoHead e => wireSvcinfoHead c e s
  | .svcEntry e => wireSvcEntry c e s
  | .footer e => wireFooter c e s
  | .nop => execNop s
  | .decode => whenReady s (commandDecode c s)
  | .encode => whenReady s (commandEncode c s)
  | .ckCompute => execCkCompute s
  | .ckValidate => execCkValidate s
  | .seqObserve => execSeqObserve s
  | .seqReset => execSeqReset s
  | .reservedCmd7 => execReservedCmd7 s
  | .bfExtract span hi lo => execBfExtract span hi lo s
  | .bfPack k fields => execBfPack k fields s
  | .bfChkrsv span hi lo const off => bitChkrsv c span hi lo const off s
  | .secExpect id => sectionExpect c id s
  | .hdrDec => sectionHdrDec c s
  | .hdrEnc => sectionHdrEnc c s
  | .tcDec => sectionTcDec c s
  | .tcEnc => sectionTcEnc c s
  | .ccDec => sectionCcDec c s
  | .ccEnc => sectionCcEnc c s
  | .cctDec o => sectionCctDec c o s
  | .cctEnc t => sectionCctEnc c t s
  | .svcDec => sectionSvcDec c s
  | .svcEnc => sectionSvcEnc c s
  | .sveDec o => sectionSveDec c o s
  | .sveEnc e => sectionSveEnc c e s
  | .ftrDec => sectionFtrDec c s
  | .ftrEnc => sectionFtrEnc c s

/-- One step of the block under a configuration. -/
def stepWith (c : Cfg) (s : State) : Out :=
  execWith c (fetch c s) s

end Sys2Proof.Machine
end

