-- ==== Sys2Proof/Machine/HostPort.lean ====
section
/-! DEFINITION. Machine/HostPort.lean: the host, the one agent outside the block (spec/00_scope.md R17,
spec/70_reset_and_hazards.md R240). `step` is the block's move; what stands here is the host's: its writes to the
registers and buffers spec/10_state.md R41 lets it write, the pseudo-operations of spec/30_encoding.md R93, and the
issue of a command. While an operation runs the host has no move (spec/60_exceptions.md R214,
spec/70_reset_and_hazards.md R236, R237). -/

namespace Sys2Proof.Machine

/-- One write of the host (spec/10_state.md R41): `CMD`, which issues a command (spec/60_exceptions.md R213); any
register of `F` by itself, an entry at once, or an entry file whole with its count. They may come in any order
(spec/70_reset_and_hazards.md R232; log entry 19). -/
inductive HostWrite where
  | cmd (v : BitVec 3)
  | operand (v : Half)
  | mode (v : Mode)
  | inByte (a : Nat) (v : Byte)
  | inLen (v : Nat)
  | inBuffer (bytes : List Byte)
  | fId (v : Half)
  | fLen (v : Byte)
  | fFr (v : BitVec 4)
  | fTcPresent (v : Bit)
  | fCcPresent (v : Bit)
  | fSvcPresent (v : Bit)
  | fSvcStart (v : Bit)
  | fSvcChange (v : Bit)
  | fSvcComplete (v : Bit)
  | fCsActive (v : Bit)
  | fHseq (v : Half)
  | fTcValid (v : Bit)
  | fTcH (v : BitVec 6)
  | fTcM (v : BitVec 7)
  | fTcFf (v : Bit)
  | fTcS (v : BitVec 7)
  | fTcDf (v : Bit)
  | fTcF (v : BitVec 6)
  | fCcValid (v : Bit)
  | fCcCount (v : BitVec 5)
  | fCcEntryValid (i : Nat) (v : Bit)
  | fCcEntryType (i : Nat) (v : BitVec 2)
  | fCcEntryD1 (i : Nat) (v : Byte)
  | fCcEntryD2 (i : Nat) (v : Byte)
  | fCcEntry (i : Nat) (t : Triplet)
  | fCc (l : List Triplet)
  | fSvcValid (v : Bit)
  | fSvcCount (v : BitVec 5)
  | fSvcEntrySn (j : Nat) (v : Byte)
  | fSvcEntryAttr (j k : Nat) (v : Byte)
  | fSvcEntry (j : Nat) (e : SvcEntry)
  | fSvc (l : List SvcEntry)
  | fFseq (v : Half)
  | fCksum (v : Byte)
deriving DecidableEq, Repr

/-- A free value may have been taken: the next one is another (log entry 7). -/
def drawn (s : State) : State :=
  { s with draws := s.draws + 1 }

/-- The bank after registers are written, with the registers recorded as written. -/
def setRegs (s : State) (rs : List FReg) (b : Bank) : State :=
  { s with f := b, fWritten := markWritten s.fWritten rs }

/-- The bank after a register write, with the register recorded as written. -/
def setReg (s : State) (r : FReg) (b : Bank) : State :=
  setRegs s [r] b

/-- The bank with other header registers. -/
def setHdr (s : State) (r : FReg) (h : HeaderRegs) : State :=
  setReg s r { s.f with hdr := h }

/-- The bank with other flags. -/
def setFlags (s : State) (r : FReg) (fl : Flags) : State :=
  setHdr s r { s.f.hdr with flags := fl }

/-- The bank with other time-code registers. -/
def setTcReg (s : State) (r : FReg) (t : TimeCode) : State :=
  setReg s r { s.f with tc := t }

/-- The registers of cc-data entry `i`. -/
def ccEntryAt (s : State) (i : Nat) : Triplet :=
  s.f.cc.getD i (Config.freeTriplet s.draws i)

/-- Registers `rs` of cc-data entry `i` written. -/
def setCcEntry (s : State) (rs : List FReg) (i : Nat) (t : Triplet) : State :=
  drawn (setRegs s rs { s.f with cc := putEntry (Config.freeTriplet s.draws) s.f.cc i t })

/-- The registers of service-info entry `j`. -/
def svcEntryAt (c : Cfg) (s : State) (j : Nat) : SvcEntry :=
  s.f.svc.getD j (freeEntry c s.draws j)

/-- Registers `rs` of service-info entry `j` written. -/
def setSvcEntry (c : Cfg) (s : State) (rs : List FReg) (j : Nat) (e : SvcEntry) : State :=
  drawn (setRegs s rs { s.f with svc := putEntry (freeEntry c s.draws) s.f.svc j e })

/-- The count of the cc-data file written: it makes the entries below it exist, those not written holding free values,
and those at and past it not (spec/10_state.md R26; log entry 19). -/
def setCcCount (s : State) (k : Nat) : State :=
  drawn <| setReg { s with fWritten := forgetFrom ccIndexOf k s.fWritten } .ccCount
    { s.f with ccCount := k, cc := fileOf (Config.freeTriplet s.draws) k s.f.cc }

/-- The count of the service-info file written (spec/10_state.md R27; log entry 19). -/
def setSvcCount (c : Cfg) (s : State) (k : Nat) : State :=
  drawn <| setReg { s with fWritten := forgetFrom svcIndexOf k s.fWritten } .svcCount
    { s.f with svcCount := k, svc := fileOf (freeEntry c s.draws) k s.f.svc }

/-- The cc-data file written whole: its count, and every entry below it. -/
def setCcFile (s : State) (l : List Triplet) : State :=
  setRegs (setCcCount s l.length) ((List.range l.length).flatMap ccEntryRegs) { s.f with ccCount := l.length, cc := l }

/-- The service-info file written whole: its count, and every entry below it. -/
def setSvcFile (c : Cfg) (s : State) (l : List SvcEntry) : State :=
  setRegs (setSvcCount c s l.length) ((List.range l.length).flatMap (svcEntryRegs c))
    { s.f with svcCount := l.length, svc := l }

/-- Entry `i` of a file has registers: its index is below the largest count the 5-bit register holds, whatever
`Cfg.ccCountMax` and `Cfg.svcCountMax` are, or below the count there is. Below a count still to be written it may be
written already (spec/70_reset_and_hazards.md R232: the order is free). -/
def entryExists (count i : Nat) : Bool :=
  decide (i < countMost) || decide (i < count)

/-- A host write the port accepts, or one whose operand names no register. -/
def accepted (ok : Bool) (s : State) : Out :=
  if ok then .next s else .refused .badWrite

/-- The host may issue a command: every register it reads has been written (spec/70_reset_and_hazards.md R232, R233).
Only ENCODE, code 010, reads any of `F`. -/
def mayIssue (c : Cfg) (code : BitVec 3) (s : State) : Bool :=
  code != 0b010 || encodeReady c s

/-- The port with no command on it: the NOP code, "no command this step" (spec/60_exceptions.md R215). -/
def quiet (s : State) : State :=
  { s with cmd := 0b000 }

/-- The write of `CMD`, which issues a command: its code stands on the port for one step, and then no command does
(spec/60_exceptions.md R213 to R215; log entry 8). An ENCODE of a register that nothing has written is no move of the
host: it is refused (spec/70_reset_and_hazards.md R233; log entry 3). -/
def issue (c : Cfg) (code : BitVec 3) (s : State) : Out :=
  if mayIssue c code s then
    match stepWith c { s with cmd := code } with
    | .next t => .next (quiet t)
    | .fault r => .fault r
    | .refused r => .refused r
  else .refused .unwrittenOperand

/-- The effect of a host write on an instance that is not busy (spec/10_state.md R41). -/
def applyWrite (c : Cfg) (w : HostWrite) (s : State) : Out :=
  match w with
  | .cmd v => issue c v s
  | .operand v => .next { s with operand := v }
  | .mode v => .next { s with mode := v }
  | .inByte a v => .next { s with inMem := memWrite s.inMem a v }
  | .inLen v => .next { s with inLen := v }
  | .inBuffer bytes => .next { s with inMem := memWriteBytes s.inMem 0 bytes, inLen := bytes.length }
  | .fId v => .next (setHdr s .id { s.f.hdr with id := v })
  | .fLen v => .next (setHdr s .len { s.f.hdr with len := v })
  | .fFr v => .next (setHdr s .fr { s.f.hdr with fr := v })
  | .fTcPresent v => .next (setFlags s .tcPresent { s.f.hdr.flags with tc := v })
  | .fCcPresent v => .next (setFlags s .ccPresent { s.f.hdr.flags with cc := v })
  | .fSvcPresent v => .next (setFlags s .svcPresent { s.f.hdr.flags with svc := v })
  | .fSvcStart v => .next (setFlags s .svcStart { s.f.hdr.flags with start := v })
  | .fSvcChange v => .next (setFlags s .svcChange { s.f.hdr.flags with change := v })
  | .fSvcComplete v => .next (setFlags s .svcComplete { s.f.hdr.flags with complete := v })
  | .fCsActive v => .next (setFlags s .csActive { s.f.hdr.flags with active := v })
  | .fHseq v => .next (setHdr s .hseq { s.f.hdr with hseq := v })
  | .fTcValid v => .next (setReg s .tcValid { s.f with tcValid := v })
  | .fTcH v => .next (setTcReg s .tcH { s.f.tc with h := v })
  | .fTcM v => .next (setTcReg s .tcM { s.f.tc with m := v })
  | .fTcFf v => .next (setTcReg s .tcFf { s.f.tc with ff := v })
  | .fTcS v => .next (setTcReg s .tcS { s.f.tc with s := v })
  | .fTcDf v => .next (setTcReg s .tcDf { s.f.tc with df := v })
  | .fTcF v => .next (setTcReg s .tcF { s.f.tc with f := v })
  | .fCcValid v => .next (setReg s .ccValid { s.f with ccValid := v })
  | .fCcCount v => .next (setCcCount s v.toNat)
  | .fCcEntryValid i v =>
    accepted (entryExists s.f.ccCount i)
      (setCcEntry s [.ccEntryValid i] i { ccEntryAt s i with valid := v })
  | .fCcEntryType i v =>
    accepted (entryExists s.f.ccCount i)
      (setCcEntry s [.ccEntryType i] i { ccEntryAt s i with ccType := v })
  | .fCcEntryD1 i v =>
    accepted (entryExists s.f.ccCount i) (setCcEntry s [.ccEntryD1 i] i { ccEntryAt s i with d1 := v })
  | .fCcEntryD2 i v =>
    accepted (entryExists s.f.ccCount i) (setCcEntry s [.ccEntryD2 i] i { ccEntryAt s i with d2 := v })
  | .fCcEntry i t =>
    accepted (entryExists s.f.ccCount i) (setCcEntry s (ccEntryRegs i) i t)
  | .fCc l => .next (setCcFile s l)
  | .fSvcValid v => .next (setReg s .svcValid { s.f with svcValid := v })
  | .fSvcCount v => .next (setSvcCount c s v.toNat)
  | .fSvcEntrySn j v =>
    accepted (entryExists s.f.svcCount j)
      (setSvcEntry c s [.svcEntrySn j] j { svcEntryAt c s j with sn := v })
  | .fSvcEntryAttr j k v =>
    accepted (entryExists s.f.svcCount j && decide (k < c.svcEntryBytes - 1))
      (setSvcEntry c s [.svcEntryAttr j k] j { svcEntryAt c s j with
        attr := putEntry (Config.freeAttr s.draws j) (svcEntryAt c s j).attr k v })
  | .fSvcEntry j e =>
    accepted (entryExists s.f.svcCount j && wfSvcEntry c e) (setSvcEntry c s (svcEntryRegs c j) j e)
  | .fSvc l => accepted (l.all (wfSvcEntry c)) (setSvcFile c s l)
  | .fFseq v => .next (setReg s .fseq { s.f with fseq := v })
  | .fCksum v => .next (setReg s .cksum { s.f with cksum := v })

/-- A host write, the issue of a command among them: none while an operation runs (spec/60_exceptions.md R214,
spec/70_reset_and_hazards.md R236, R237). -/
def hostWrite (c : Cfg) (w : HostWrite) (s : State) : Out :=
  if busy s then .refused .hostBusy else applyWrite c w s

/-- Host writes one after another, stopping at the first that is refused. -/
def hostWrites (c : Cfg) : List HostWrite → State → Out
  | [], s => .next s
  | w :: rest, s =>
    match hostWrite c w s with
    | .next t => hostWrites c rest t
    | .fault r => .fault r
    | .refused r => .refused r

/-- The host issues a command to a block under a configuration: it writes `CMD` (spec/60_exceptions.md R213). -/
def hostCommandWith (c : Cfg) (code : BitVec 3) (s : State) : Out :=
  hostWrite c (.cmd code) s

/-- The host issues a command under the default configuration. -/
def hostCommand (code : BitVec 3) (s : State) : Out :=
  hostCommandWith cfg code s

/-- The attribute a register is. -/
def attrIndexOf : FReg → Option Nat
  | .svcEntryAttr _ k => some k
  | _ => none

/-- A register of `F` exists: one of an entry does below the count, and of an entry's attributes only `ATTR[0]` to
`ATTR[W-2]` do, `W` being `Cfg.svcEntryBytes` (spec/10_state.md R26, R27). -/
def regExists (c : Cfg) (b : Bank) (r : FReg) : Bool :=
  ((ccIndexOf r).all fun i => decide (i < b.ccCount)) && ((svcIndexOf r).all fun j => decide (j < b.svcCount)) &&
    (attrIndexOf r).all fun k => decide (k < c.svcEntryBytes - 1)

/-- A register of `F` the host may read: it exists and no operation runs (spec/10_state.md R41). What it reads in one
that nothing has written is a free value (log entry 3). -/
def hostMayRead (c : Cfg) (r : FReg) (s : State) : Bool :=
  !busy s && regExists c s.f r

/-! The pseudo-operations (spec/30_encoding.md R93). -/

/-- `SET_TC v`. -/
def setTc (v : TimeCode) : List HostWrite :=
  [.fTcValid 1, .fTcPresent 1, .fTcH v.h, .fTcM v.m, .fTcFf v.ff, .fTcS v.s, .fTcDf v.df, .fTcF v.f]

/-- `CLR_TC`. -/
def clrTc : List HostWrite :=
  [.fTcValid 0, .fTcPresent 0]

/-- `SET_CC list`: the last write is that of `F.CC_COUNT` and of every `F.CC[i]`. -/
def setCc (l : List Triplet) : List HostWrite :=
  [.fCcValid 1, .fCcPresent 1, .fCc l]

/-- `CLR_CC`. -/
def clrCc : List HostWrite :=
  [.fCcValid 0, .fCcPresent 0]

/-- `SET_SVC list`: the last write is that of `F.SVC_COUNT` and of every `F.SVC[j]`. -/
def setSvc (l : List SvcEntry) : List HostWrite :=
  [.fSvcValid 1, .fSvcPresent 1, .fSvc l]

/-- `CLR_SVC`. -/
def clrSvc : List HostWrite :=
  [.fSvcValid 0, .fSvcPresent 0]

end Sys2Proof.Machine
end

