-- ==== Sys2Proof/Safety.lean ====
section
/-! DEFINITION. Safety.lean: the terms claims about the machine are stated in: which instructions belong to which
unit, the invariants of the state, and the framer run to the end of its operation. -/

namespace Sys2Proof.Safety

open Sys2Proof.Machine

/-- The seven wire elements. -/
def isWire : Instr → Bool
  | .header _ | .timecode _ | .ccdataHead _ | .ccTriplet _ | .svcinfoHead _ | .svcEntry _ | .footer _ => true
  | _ => false

/-- The seven host commands the port accepts (spec/30_encoding.md R90). -/
def isCommand : Instr → Bool
  | .nop | .decode | .encode | .ckCompute | .ckValidate | .seqObserve | .seqReset => true
  | _ => false

/-- The internal operations that read `IN` or their operands and hand a result to their caller. -/
def isReader : Instr → Bool
  | .bfExtract _ _ _ | .bfPack _ _ | .bfChkrsv _ _ _ _ _ | .secExpect _ => true
  | .hdrDec | .tcDec | .ccDec | .cctDec _ | .svcDec | .sveDec _ | .ftrDec => true
  | _ => false

/-- The internal operations that append to `OUT`. -/
def isEmitter : Instr → Bool
  | .hdrEnc | .tcEnc | .ccEnc | .cctEnc _ | .svcEnc | .sveEnc _ | .ftrEnc => true
  | _ => false

/-- Both buffers are in canonical form. -/
def memoryOk (s : State) : Bool :=
  memWf s.inMem && memWf s.outMem

/-- Between the moves of the host: no operation runs and no command stands on the port (spec/60_exceptions.md R214,
R215). -/
def PortQuiet (s : State) : Prop :=
  busy s = false ∧ s.cmd = 0b000

/-- No failure is shown but in `Failed`, and no offset without a kind (spec/10_state.md R32, R35). -/
def KindShown (s : State) : Prop :=
  (s.errKind ≠ .none → s.st = .failed) ∧ (s.errKind = .none → s.errOff = 0)

/-- A failure is shown exactly in `Failed`, and no offset without a kind (spec/10_state.md R32, R35). -/
def StatusOk (s : State) : Prop :=
  (s.st = .failed ↔ s.errKind ≠ .none) ∧ (s.errKind = .none → s.errOff = 0)

/-- The cursor of a counted section: at most `most` before its head, and then behind the head and the entries read,
of which one is still lacking (spec/10_state.md R33). -/
def sectionOk {α : Type} (most size cur : Nat) (o : Option (BitVec 5 × List α)) : Bool :=
  match o with
  | none => decide (cur ≤ most)
  | some (cnt, l) => decide (l.length < cnt.toNat) && decide (cur ≤ most + 2 + size * l.length)

/-- Where the framer stands and what it holds fit each other under the default configuration, and the two 9-bit
registers hold what they should (spec/10_state.md R33, R35; spec/43_packet_decode.md R166; spec/20_memory.md R58). -/
def frameOk (s : State) : Bool :=
  decide (s.errOff < 512) &&
    match s.st with
    | .header => decide (s.cur = 0) && s.pend.cc.isNone && s.pend.svc.isNone
    | .timeCode => decide (s.cur ≤ 7) && s.pend.cc.isNone && s.pend.svc.isNone
    | .ccData => sectionOk 12 3 s.cur s.pend.cc && s.pend.svc.isNone
    | .serviceInfo => sectionOk 107 7 s.cur s.pend.svc
    | .footer => decide (s.cur ≤ 326)
    | .idle => decide (s.cur ≤ 326)
    | .done => decide (s.cur ≤ 326)
    | .failed => decide (s.cur ≤ 326)

/-- The place of a framing state in the fixed order (spec/10_state.md R32). -/
def frameRank : FrameState → Nat
  | .idle => 0
  | .header => 1
  | .timeCode => 2
  | .ccData => 3
  | .serviceInfo => 4
  | .footer => 5
  | .done => 6
  | .failed => 7

/-- The most steps a decode takes: the header, the time code, a head and 31 entries of each counted section, the
footer (spec/70_reset_and_hazards.md R241). -/
def maxFramerSteps : Nat := 67

/-- Steps of the block under a configuration while its operation runs, at most `k` of them. -/
def runFramer (c : Cfg) : Nat → State → Out
  | 0, s => .next s
  | k + 1, s =>
    if busy s then
      match stepWith c s with
      | .next t => runFramer c k t
      | .fault r => .fault r
      | .refused r => .refused r
    else .next s

/-- Every service entry of a packet record has its `Cfg.svcEntryBytes` bytes (spec/10_state.md R27). -/
def entriesWhole (c : Cfg) (p : Pkt) : Bool :=
  match p.svc with
  | none => true
  | some l => l.all (wfSvcEntry c)

/-- The identifier the framer expects at offset 7, by the gating flags (spec/43_packet_decode.md R153, R167). -/
def firstSectionId (c : Cfg) (fl : Flags) : Byte :=
  if fl.tc = 1 then c.idTimecode
  else if fl.cc = 1 then c.idCcdata
  else if fl.svc = 1 then c.idSvcinfo
  else c.idFooter

/-! What an operation leaves unchanged. -/

/-- The registers only the host writes (spec/10_state.md R41). -/
def SameHostSide (s t : State) : Prop :=
  t.cmd = s.cmd ∧ t.operand = s.operand ∧ t.mode = s.mode ∧ t.inMem = s.inMem ∧ t.inLen = s.inLen

/-- The bank `F`, with the record of what has been written. -/
def SameBank (s t : State) : Prop :=
  t.f = s.f ∧ t.fWritten = s.fWritten

/-- The output buffer. -/
def SameOut (s t : State) : Prop :=
  t.outMem = s.outMem ∧ t.outLen = s.outLen

/-- The tracker and the checksum result. -/
def SameResults (s t : State) : Prop :=
  t.report = s.report ∧ t.lastSeq = s.lastSeq ∧ t.result = s.result

/-- The framing registers. -/
def SameFraming (s t : State) : Prop :=
  t.st = s.st ∧ t.cur = s.cur ∧ t.n = s.n ∧ t.consumed = s.consumed ∧ t.sum = s.sum ∧
    t.modeSample = s.modeSample ∧ t.pend = s.pend

/-- The failure registers. -/
def SameErr (s t : State) : Prop :=
  t.errKind = s.errKind ∧ t.errOff = s.errOff

/-- The operation ends in `Failed` with this kind and offset (spec/60_exceptions.md R206). -/
def FailsWith (o : Out) (k : ErrKind) (off : Nat) : Prop :=
  ∃ t : State, o = .next t ∧ t.st = .failed ∧ t.errKind = k ∧ t.errOff = off

/-- The operation appends exactly these bytes to `OUT`, the cursor counting them, and changes nothing else: every
byte outside them reads as before (spec/00_scope.md R12 `Emit`). -/
def Appends (o : Out) (s : State) (bytes : List Byte) : Prop :=
  ∃ t : State, o = .next t ∧
    t = { s with cur := s.cur + bytes.length, outMem := t.outMem, outLen := s.outLen + bytes.length } ∧
    memSpan t.outMem s.outLen bytes.length = bytes ∧
    ∀ a, (a < s.outLen ∨ s.outLen + bytes.length ≤ a) → memRead t.outMem a = memRead s.outMem a

/-- Byte `i` of `IN` as a number. -/
def inNat (s : State) (i : Nat) : Nat :=
  (memRead s.inMem i).toNat

/-- One offset in a warning list, when its reserved field is wrong. -/
def warnIf (bad : Bool) (off : Nat) : List Nat :=
  if bad then [off] else []

end Sys2Proof.Safety
end

