-- ==== Sys2Proof/Certificates/Slice0/Obligations.lean ====
section
/-! DEFINITION. Certificates/Slice0/Obligations.lean: the statements for the provers. Each docstring names the rule
of spec/ it formalises, or says that it rests on a choice of the model and names the log entry. -/

open Sys2Proof Sys2Proof.Machine Sys2Proof.Safety

/-! ## Fetching, decoding, encoding -/

/-- When the bytes of the slot that is due decode to `i`, a step is `i`'s meaning, with nothing around it, under every
configuration; while no operation runs the instruction is the command on the port; `step` and `exec` are the step and
the meanings under the default configuration (spec/20_memory.md R63, spec/43_packet_decode.md R153,
spec/60_exceptions.md R214, spec/00_scope.md R7; the two granularities are log entry 1). -/
def Obligations.StepRunsTheDecodedInstruction : Prop :=
  (∀ (s : State) (i : Instr), decodeAt cfg (slotOf s) (fetchBytes cfg s) = .ok i → step s = exec i s) ∧
    (∀ (c : Cfg) (s : State) (i : Instr), decodeAt c (slotOf s) (fetchBytes c s) = .ok i →
      stepWith c s = execWith c i s) ∧
    (∀ s : State, busy s = false → step s = exec (parseCmd s.cmd) s) ∧
    (∀ s : State, step s = stepWith cfg s) ∧ ∀ (i : Instr) (s : State), exec i s = execWith cfg i s

/-- Words written out bit by bit from spec/opcode_table.json and spec/30_encoding.md R71 to R80, R90 decode to the
instructions they stand for; the byte order of a word is log entry 17. -/
def Obligations.WrittenOutWordsDecodeAsTheirRows : Prop :=
  decodeTableWord 56 0b10010110011010010000101101001111111000111111111100000001 =
      some (.header ⟨0x9669, 11, 4, 15, ⟨1, 1, 1, 0, 0, 0, 1⟩, 1, 0xFF01⟩) ∧
    decodeTableWord 40 0b0111000111010010101101000101011010101001 =
      some (.timecode ⟨0x71, 3, 1, 0, ⟨0x12, 0x34, 0, 0x56, 1, 0x29⟩⟩) ∧
    decodeTableWord 16 0b0111001011100010 = some (.ccdataHead ⟨0x72, 7, 2⟩) ∧
    decodeTableWord 24 0b111110100100000110000000 = some (.ccTriplet ⟨31, ⟨0, 2, 0x41, 0x80⟩⟩) ∧
    decodeTableWord 16 0b0111001111100001 = some (.svcinfoHead ⟨0x73, 7, 1⟩) ∧
    decodeTableWord 56 0b00000001011001010110111001100111110000010011111111111111 =
      some (.svcEntry ⟨1, [0x65, 0x6E, 0x67, 0xC1, 0x3F, 0xFF]⟩) ∧
    decodeTableWord 32 0b01110100000000010000001000011000 = some (.footer ⟨0x74, 0x0102, 0x18⟩) ∧
    [0, 1, 2, 3, 4, 5, 6, 7].map (decodeTableWord 8) =
      [some .nop, some .decode, some .encode, some .ckCompute, some .ckValidate, some .seqObserve, some .seqReset,
        some .reservedCmd7]

/-- Decoding the encoding of a well-formed instruction gives it back, every field at every value, and the encoding
fills its slot, for every legal configuration (spec/30_encoding.md R71 to R80, R90, R94). -/
def Obligations.DecodeOfEncodeIsTheInstruction : Prop :=
  ∀ (c : Cfg) (i : Instr) (slot : Slot) (b : List Byte), c.legal = true → wellFormed c i = true →
    encode c i = some (slot, b) → decodeAt c slot b = .ok i ∧ b.length = slotLen c slot

/-- Encoding what was decoded gives the bytes back: no bit of an element is dropped (spec/30_encoding.md R81, R94). -/
def Obligations.EncodeOfDecodeIsTheBytes : Prop :=
  ∀ (c : Cfg) (i : Instr) (slot : Slot) (b : List Byte), c.legal = true → decodeAt c slot b = .ok i →
    encode c i = some (slot, b.take (slotLen c slot))

/-! ## Reset and the port -/

/-- Hardware reset leaves the values the spec gives, under every configuration; `State.reset` is the one of the default
configuration (spec/10_state.md R42, spec/00_scope.md R7). -/
def Obligations.ResetLeavesTheSpecsValues : Prop :=
  State.reset = State.resetWith cfg ∧ ∀ c : Cfg, let s := State.resetWith c
  s.lastSeq = none ∧ s.mode = .strict ∧ s.st = .idle ∧ s.cur = 0 ∧ s.n = 0 ∧ s.consumed = 0 ∧ s.sum = 0 ∧
    errCode s.errKind = 0 ∧ s.errOff = 0 ∧ s.warn = [] ∧ reportCode s.report.kind = 0 ∧ s.report.n = 0 ∧
    s.result = 0 ∧ s.inLen = 0 ∧ s.outLen = 0 ∧ s.fWritten = []

/-- The invariants hold after reset: both buffers in canonical form (the form is the model's, log entry 4), the failure
registers and `st` in agreement, the cursor and the offset within their bounds (spec/10_state.md R32, R33, R35, R42). -/
def Obligations.ResetMeetsTheInvariants : Prop :=
  memoryOk State.reset = true ∧ StatusOk State.reset ∧ frameOk State.reset = true

/-- NOP changes no state at all (spec/60_exceptions.md R215). -/
def Obligations.NopChangesNothing : Prop :=
  (∀ s : State, exec .nop s = .next s) ∧
    parseCmd 0b000 = .nop ∧ ∀ s : State, busy s = false → s.cmd = 0b000 → step s = .next s

/-- The code 0b111 is refused (spec/30_encoding.md R91). -/
def Obligations.ReservedCodeIsRefused : Prop :=
  (∀ s : State, exec .reservedCmd7 s = .refused .reservedCommand) ∧
    parseCmd 0b111 = .reservedCmd7 ∧
    ∀ s : State, busy s = false → s.cmd = 0b111 → step s = .refused .reservedCommand

/-- A command offered while an operation runs has no effect; an operation runs exactly when `st` is none of `Idle`,
`Done`, `Failed` (spec/60_exceptions.md R214; log entry 11). -/
def Obligations.CommandOfferedWhileBusyHasNoEffect : Prop :=
  (∀ (i : Instr) (s : State), isCommand i = true → busy s = true → exec i s = .next s) ∧
    ∀ s : State, busy s = true ↔ s.st ≠ .idle ∧ s.st ≠ .done ∧ s.st ≠ .failed

/-! ## DECODE -/

/-- A buffer the packet function decodes makes DECODE end in `Done` with its record in `F`, the consumed length, the
warnings, a sum of 0 and no failure; the host's registers, `OUT`, the tracker and `RESULT` are untouched
(spec/43_packet_decode.md R160, R164; spec/10_state.md R35; what the model adds beside, log entries 1 and 7). -/
def Obligations.DecodeEndsInDone : Prop :=
  ∀ (s : State) (d : Decoded), busy s = false → decodePacket cfg s.mode (operandBytes s) = .ok d →
    ∃ t : State, exec .decode s = .next t ∧ bankPkt cfg t.f = d.pkt ∧
      t = { s with
        st := .done, cur := d.consumed, n := s.inLen, consumed := d.consumed, sum := 0, modeSample := s.mode
        errKind := .none, errOff := 0, warn := d.warn, f := t.f, fWritten := pktRegs cfg d.pkt
        pend := Pending.empty, draws := t.draws }

/-- A buffer the packet function refuses makes DECODE end in `Failed` with that kind and offset, no register of `F`
defined and nothing pending; the host's registers, `OUT`, the tracker and `RESULT` are untouched; of `F`, `WARN`,
`consumed` and `sum` nothing is said (spec/43_packet_decode.md R161; spec/60_exceptions.md R206, R207;
spec/10_state.md R44; the cursor is log entry 15). -/
def Obligations.DecodeEndsInFailed : Prop :=
  ∀ (s : State) (a : Abort), busy s = false → decodePacket cfg s.mode (operandBytes s) = .error a →
    ∃ t : State, exec .decode s = .next t ∧
      t = { s with
        st := .failed, cur := a.cur, n := s.inLen, modeSample := s.mode, errKind := a.raised.kind
        errOff := a.raised.off, f := t.f, fWritten := [], warn := t.warn, consumed := t.consumed, sum := t.sum
        pend := Pending.empty, ret := .nothing, draws := t.draws }

/-- What a `Done` decode delivers: the bounds, the length, lockstep of tags and flags, the two counters equal, the
magic, a legal frame rate, counts within their maxima, and a consumed span of sum 0, for every legal configuration
(spec/43_packet_decode.md R166; spec/10_state.md R22, R28, R29; spec/20_memory.md R58). -/
def Obligations.DoneDecodeIsWellFormed : Prop :=
  ∀ (c : Cfg) (m : Mode) (buf : List Byte) (d : Decoded), c.legal = true → decodePacket c m buf = .ok d →
    11 ≤ d.consumed ∧ d.consumed ≤ 255 ∧ d.consumed ≤ buf.length ∧ d.consumed = d.pkt.hdr.len.toNat ∧
      d.consumed = pktLength c d.pkt ∧ d.pkt.hdr.flags.tc = tagOf d.pkt.tc ∧ d.pkt.hdr.flags.cc = tagOf d.pkt.cc ∧
      d.pkt.hdr.flags.svc = tagOf d.pkt.svc ∧ d.pkt.fseq = d.pkt.hdr.hseq ∧ d.pkt.hdr.id = c.magic ∧
      c.validFrameRates.contains d.pkt.hdr.fr = true ∧ countFits d.pkt.cc c.ccCountMax = true ∧
      countFits d.pkt.svc c.svcCountMax = true ∧ entriesWhole c d.pkt = true ∧ sum8 (buf.take d.consumed) = 0

/-- Bytes behind the consumed span change nothing of a `Done` decode, whatever they are and however many
(spec/43_packet_decode.md R162, R169). -/
def Obligations.TrailingBytesAreIgnored : Prop :=
  ∀ (c : Cfg) (m : Mode) (buf rest : List Byte) (d : Decoded), c.legal = true → decodePacket c m buf = .ok d →
    decodePacket c m (buf.take d.consumed ++ rest) = .ok d

/-- What strict mode decodes lenient mode decodes the same, without a warning; what strict mode refuses for any other
reason than a reserved field lenient mode refuses with the same kind and offset (spec/43_packet_decode.md R163). -/
def Obligations.LenientAgreesWithStrict : Prop :=
  ∀ (c : Cfg) (buf : List Byte),
    (∀ d : Decoded, decodePacket c .strict buf = .ok d → decodePacket c .lenient buf = .ok d ∧ d.warn = []) ∧
      ∀ a : Abort, decodePacket c .strict buf = .error a → a.raised.kind ≠ .reservedBitMismatch →
        decodePacket c .lenient buf = .error a

/-- The warnings of a `Done` decode are rising offsets inside the packet, at most 38 of them, and none in strict mode
(spec/10_state.md R36). -/
def Obligations.WarningsAreInWireOrder : Prop :=
  ∀ (c : Cfg) (m : Mode) (buf : List Byte) (d : Decoded), c.legal = true → decodePacket c m buf = .ok d →
    d.warn.Pairwise (· < ·) ∧ d.warn.length ≤ 38 ∧ (∀ o ∈ d.warn, 3 ≤ o ∧ o < d.consumed) ∧
      (m = .strict → d.warn = [])

/-- When the header passes and the byte at offset 7 is not the identifier of the first section its flags call for,
the decode fails UnexpectedSectionId at 7: flag without section, section without flag, and sections out of order
(spec/43_packet_decode.md R167, R168; the cursor 7 of the failure is log entry 15). -/
def Obligations.FirstSectionMustCarryItsIdentifier : Prop :=
  ∀ (c : Cfg) (m : Mode) (buf : List Byte) (h : HeaderRegs) (w : List Nat), c.legal = true →
    hdrDecOf c m [] buf = .ok (h, w) → 8 ≤ buf.length → byteAt buf 7 ≠ firstSectionId c h.flags →
    decodePacket c m buf = .error ⟨⟨.unexpectedSectionId, 7⟩, 7⟩

/-- What each command can end in: DECODE in `Done` or with a kind other than InconsistentFlags, ENCODE in `Done` or
with InvalidFrameRate, CountOverflow or InconsistentFlags and offset 0; no kind with `Done`
(spec/60_exceptions.md R204, R202). -/
def Obligations.FailureKindsOfTheCommands : Prop :=
  (∀ s t : State, busy s = false → exec .decode s = .next t →
      (t.st = .done ∧ t.errKind = .none ∧ t.errOff = 0) ∨
        (t.st = .failed ∧ t.errKind ≠ .none ∧ t.errKind ≠ .inconsistentFlags)) ∧
    ∀ s t : State, busy s = false → exec .encode s = .next t →
      (t.st = .done ∧ t.errKind = .none ∧ t.errOff = 0) ∨
        (t.st = .failed ∧ t.errOff = 0 ∧
          (t.errKind = .invalidFrameRate ∨ t.errKind = .countOverflow ∨ t.errKind = .inconsistentFlags))

/-- The small steps from a decode's start to its end compute exactly what the atomic command computes, the cursor
included, for every legal configuration (spec/43_packet_decode.md R164, R165; the pairing of the two granularities is
log entry 1, the cursor of a failure log entry 15). -/
def Obligations.FramerStepsComputeDecode : Prop :=
  (∀ (c : Cfg) (s : State), c.legal = true → busy s = false →
      runFramer c maxFramerSteps (startDecode c s) = execWith c .decode s) ∧
    ∀ s : State, busy s = false → runFramer cfg maxFramerSteps (startDecode cfg s) = exec .decode s

/-- From any state in which an operation runs, the block's steps end it, within 67 of them and with neither a fault
nor a refusal, under every configuration: there is no stuck state (spec/70_reset_and_hazards.md R241). -/
def Obligations.FramerAlwaysEnds : Prop :=
  ∀ (c : Cfg) (s : State), busy s = true → ∃ t : State, runFramer c maxFramerSteps s = .next t ∧ busy t = false

/-- A framing step never goes back, and neither does the cursor behind the header; it stays only inside a counted
section, and otherwise leaves to the state the demultiplexer names or to `Failed`, under every configuration
(spec/10_state.md R32, R33, spec/43_packet_decode.md R153). -/
def Obligations.FramingStateOnlyAdvances : Prop :=
  ∀ (c : Cfg) (s t : State), busy s = true → stepWith c s = .next t →
    frameRank s.st ≤ frameRank t.st ∧ (s.st ≠ .header → s.cur ≤ t.cur) ∧
      (t.st = s.st → s.st = .ccData ∨ s.st = .serviceInfo) ∧
      (t.st ≠ s.st → t.st = .failed ∨ t.st = .done ∧ s.st = .footer ∨ t.st = nextFrame t.pend.hdr.flags s.st)

/-! ## ENCODE -/

/-- An encodable record makes ENCODE end in `Done` with the packet in `OUT` from index 0 and its length;
`F`, `WARN`, the host's registers and the results are untouched, and no byte behind the packet changes
(spec/44_packet_encode.md R170, R177, R178; `consumed` and `sum` are log entry 23; it holds also of a record that
nothing has written, log entry 3). -/
def Obligations.EncodeEndsInDone : Prop :=
  ∀ (s : State) (bytes : List Byte), busy s = false → memWf s.outMem = true →
    encodePacket cfg (bankPkt cfg s.f) = .ok bytes →
    ∃ t : State, exec .encode s = .next t ∧ outBytes t = bytes ∧
      (∀ a, bytes.length ≤ a → memRead t.outMem a = memRead s.outMem a) ∧
      t = { s with
        st := .done, cur := bytes.length, consumed := 0, sum := 0, errKind := .none, errOff := 0
        outMem := t.outMem, outLen := bytes.length }

/-- The bytes of an encoded packet: the structural length, between 11 and 255, in byte 2; the magic first; both
counters from `F.HSEQ`; a byte sum of 0. The record ENCODE reads of the bank has entries of `Cfg.svcEntryBytes` bytes
whatever the bank holds, so every ENCODE in `Done` leaves `OUT` of that length (spec/44_packet_encode.md R175 to R178,
R180; spec/10_state.md R27). -/
def Obligations.EncodedPacketShape : Prop :=
  (∀ (c : Cfg) (p : Pkt) (bytes : List Byte), c.legal = true → entriesWhole c p = true →
    encodePacket c p = .ok bytes →
    bytes.length = pktLength c p ∧ 11 ≤ bytes.length ∧ bytes.length ≤ 255 ∧
      (byteAt bytes 2).toNat = bytes.length ∧ halfField (byteAt bytes 0) (byteAt bytes 1) = c.magic ∧
      halfField (byteAt bytes 5) (byteAt bytes 6) = p.hdr.hseq ∧
      byteAt bytes (bytes.length - 4) = c.idFooter ∧
      halfField (byteAt bytes (bytes.length - 3)) (byteAt bytes (bytes.length - 2)) = p.hdr.hseq ∧
      sum8 bytes = 0) ∧
    (∀ (c : Cfg) (b : Bank), c.legal = true → entriesWhole c (bankPkt c b) = true) ∧
    ∀ (c : Cfg) (s t : State), c.legal = true → busy s = false → execWith c .encode s = .next t → t.st = .done →
      t.outLen = pktLength c (bankPkt c s.f)

/-- The four checks of ENCODE in their order, each with its kind; when none fires ENCODE ends in `Done`. In both
cases `F` is unchanged (spec/44_packet_encode.md R171 to R175, R170). -/
def Obligations.EncodeFailsInCheckOrder : Prop :=
  ∀ s : State, busy s = false →
    ∃ t : State, exec .encode s = .next t ∧ SameBank s t ∧ t.errOff = 0 ∧ t.warn = s.warn ∧ SameHostSide s t ∧
      SameResults s t ∧
      (if ¬(s.f.hdr.flags.tc = s.f.tcValid ∧ s.f.hdr.flags.cc = s.f.ccValid ∧ s.f.hdr.flags.svc = s.f.svcValid) then
        t.st = .failed ∧ t.errKind = .inconsistentFlags
      else if ¬(1 ≤ s.f.hdr.fr.toNat ∧ s.f.hdr.fr.toNat ≤ 8) then
        t.st = .failed ∧ t.errKind = .invalidFrameRate
      else if (s.f.ccValid = 1 ∧ 31 < s.f.ccCount) ∨ (s.f.svcValid = 1 ∧ 31 < s.f.svcCount) then
        t.st = .failed ∧ t.errKind = .countOverflow
      else if 255 < 7 + (if s.f.tcValid = 1 then 5 else 0) + (if s.f.ccValid = 1 then 2 + 3 * s.f.ccCount else 0) +
          (if s.f.svcValid = 1 then 2 + 7 * s.f.svcCount else 0) + 4 then
        t.st = .failed ∧ t.errKind = .countOverflow
      else t.st = .done ∧ t.errKind = .none)

/-- ENCODE depends neither on `MODE`, `IN`, `WARN` and the tracker nor on `F.ID`, `F.LEN`, `F.FSEQ`, `F.CKSUM`: two
instances that differ only there emit the same packet (spec/44_packet_encode.md R170, spec/10_state.md R22, R28). -/
def Obligations.EncodeReadsOnlyItsRegisters : Prop :=
  ∀ (s t : State) (m : Mode) (mem : Memory) (k : Nat) (w : List Nat) (last : Option Half) (id fs : Half)
    (len ck : Byte), busy s = false → exec .encode s = .next t → t.st = .done →
    ∃ u : State,
      exec .encode { s with
        mode := m, inMem := mem, inLen := k, warn := w, lastSeq := last,
        f := { s.f with hdr := { s.f.hdr with id := id, len := len }, fseq := fs, cksum := ck } } = .next u ∧
      u.st = .done ∧ outBytes u = outBytes t ∧ u.outLen = t.outLen

/-- The host's issue of an ENCODE is refused when a register ENCODE reads has never been written, right after reset and
right after a failed DECODE among others, and is one step otherwise. No command runs but by its issue: the port is
quiet after reset and after every move of the host, and a step of a quiet port changes nothing. The operation itself is
total: it ends in `Done` or in `Failed` from every state in which the port is ready, and no encoder's outcome depends
on which registers have been written. Under every configuration (spec/70_reset_and_hazards.md R233, R241,
spec/44_packet_encode.md R170, spec/60_exceptions.md R213 to R215; that the refusal is of the host's move is the
model's choice, log entry 3, that an issued command stands on the port for one step log entry 8). -/
def Obligations.EncodeOfUnwrittenRegisters : Prop :=
  (∀ (c : Cfg) (s : State), busy s = false →
      hostCommandWith c 0b010 s =
        if ∀ r ∈ encodeReads c s.f, r ∈ s.fWritten then
          .next (quiet (endEncode c (startEncode s) (encodePacket c (bankPkt c s.f))))
        else .refused .unwrittenOperand) ∧
    (∀ c : Cfg, PortQuiet (State.resetWith c)) ∧
    (∀ (c : Cfg) (w : HostWrite) (s t : State), PortQuiet s → hostWrite c w s = .next t → PortQuiet t) ∧
    (∀ (c : Cfg) (s : State), PortQuiet s → stepWith c s = .next s) ∧
    (∀ c : Cfg, hostCommandWith c 0b010 (State.resetWith c) = .refused .unwrittenOperand) ∧
    (∀ (c : Cfg) (s t : State), busy s = false → execWith c .decode s = .next t → t.st = .failed →
      hostCommandWith c 0b010 t = .refused .unwrittenOperand) ∧
    (∀ (c : Cfg) (s : State), busy s = false →
      ∃ t : State, execWith c .encode s = .next t ∧ (t.st = .done ∨ t.st = .failed)) ∧
    ∀ (c : Cfg) (i : Instr) (s t : State) (w : List FReg), (i = .encode ∨ isEmitter i = true) →
      execWith c i s = .next t → execWith c i { s with fWritten := w } = .next { t with fWritten := w }

/-- Round trip: what ENCODE emits, followed by anything, DECODE in either mode takes back to the same record, with the
magic, the length, the footer counter and the checksum of the wire (spec/44_packet_encode.md R179). -/
def Obligations.EncodeThenDecodeRoundTrip : Prop :=
  ∀ (c : Cfg) (m : Mode) (p : Pkt) (bytes rest : List Byte), c.legal = true → entriesWhole c p = true →
    encodePacket c p = .ok bytes →
    decodePacket c m (bytes ++ rest) =
      .ok ⟨{ p with
              hdr := { p.hdr with id := c.magic, len := BitVec.ofNat 8 bytes.length }
              fseq := p.hdr.hseq
              cksum := byteAt bytes (bytes.length - 1) },
            bytes.length, []⟩

/-- Canonical form: a packet strict DECODE accepts is the packet ENCODE makes of its record
(spec/30_encoding.md R86). -/
def Obligations.StrictDecodeThenEncodeReproduces : Prop :=
  ∀ (c : Cfg) (buf : List Byte) (d : Decoded), c.legal = true → decodePacket c .strict buf = .ok d →
    encodePacket c d.pkt = .ok (buf.take d.consumed)

/-- On the machine: ENCODE, the host copying `OUT` to `IN`, DECODE in either mode, CK_VALIDATE. Every member ENCODE
reads comes back, without a warning, and the buffer validates (spec/44_packet_encode.md R179,
spec/42_checksum_engine.md R144). -/
def Obligations.MachineRoundTrip : Prop :=
  ∀ (s : State) (bytes : List Byte) (m : Mode), busy s = false →
    memWf s.inMem = true → memWf s.outMem = true →
    encodePacket cfg (bankPkt cfg s.f) = .ok bytes →
    ∃ t u v : State, exec .encode s = .next t ∧
      exec .decode { t with mode := m, inMem := memWriteBytes t.inMem 0 (outBytes t), inLen := t.outLen } = .next u ∧
      exec .ckValidate u = .next v ∧ u.st = .done ∧ u.warn = [] ∧ u.consumed = bytes.length ∧
      (bankPkt cfg u.f).tc = (bankPkt cfg s.f).tc ∧ (bankPkt cfg u.f).cc = (bankPkt cfg s.f).cc ∧
      (bankPkt cfg u.f).svc = (bankPkt cfg s.f).svc ∧ u.f.hdr.fr = s.f.hdr.fr ∧ u.f.hdr.flags = s.f.hdr.flags ∧
      u.f.hdr.hseq = s.f.hdr.hseq ∧ u.f.fseq = s.f.hdr.hseq ∧ u.f.hdr.id = cfg.magic ∧
      u.f.hdr.len.toNat = bytes.length ∧ v.result = 1

/-- Packets built with the pseudo-operations never raise InconsistentFlags: `SET_TC` or `CLR_TC`, `SET_CC` or
`CLR_CC`, `SET_SVC` or `CLR_SVC`, on any bank; with the header's registers written before, every register ENCODE reads
is written then. An entry file is the same whether the host writes its count or its entries first, under every
configuration (spec/30_encoding.md R93, spec/70_reset_and_hazards.md R232; entries before the count are log entry
19). -/
def Obligations.PseudoOperationsKeepTagsInStep : Prop :=
  (∀ (s : State) (tc cc svc : List HostWrite) (v : TimeCode) (l : List Triplet) (e : List SvcEntry),
    busy s = false → e.all (wfSvcEntry cfg) = true → (tc = setTc v ∨ tc = clrTc) → (cc = setCc l ∨ cc = clrCc) →
    (svc = setSvc e ∨ svc = clrSvc) →
    ∃ t : State, hostWrites cfg (tc ++ cc ++ svc) s = .next t ∧ flagsConsistent (bankPkt cfg t.f) = true ∧
      (tc = setTc v → t.f.tc = v) ∧ (cc = setCc l → ccEntries t.f = l) ∧ (svc = setSvc e → svcEntries cfg t.f = e) ∧
      ((∀ r ∈ hdrEncReads, r ∈ s.fWritten) → encodeReady cfg t = true)) ∧
    (∀ (c : Cfg) (s : State) (l : List Triplet), busy s = false → l.length ≤ 31 →
      let count := [HostWrite.fCcCount (BitVec.ofNat 5 l.length)]
      let entries := (List.range l.length).map fun i => HostWrite.fCcEntry i (l.getD i Triplet.zero)
      ∃ t u : State, hostWrites c (count ++ entries) s = .next t ∧ hostWrites c (entries ++ count) s = .next u ∧
        ccEntries t.f = l ∧ ccEntries u.f = l ∧ (∀ r ∈ ccReads t.f, r ∈ t.fWritten) ∧
        ∀ r ∈ ccReads u.f, r ∈ u.fWritten) ∧
    ∀ (c : Cfg) (s : State) (l : List SvcEntry), busy s = false → l.length ≤ 31 → l.all (wfSvcEntry c) = true →
      let count := [HostWrite.fSvcCount (BitVec.ofNat 5 l.length)]
      let entries := (List.range l.length).map fun j => HostWrite.fSvcEntry j (l.getD j ⟨0, []⟩)
      ∃ t u : State, hostWrites c (count ++ entries) s = .next t ∧ hostWrites c (entries ++ count) s = .next u ∧
        svcEntries c t.f = l ∧ svcEntries c u.f = l ∧ (∀ r ∈ svcReads c t.f, r ∈ t.fWritten) ∧
        ∀ r ∈ svcReads c u.f, r ∈ u.fWritten

/-! ## The checksum engine -/

/-- `SUM8` is the sum modulo 256, 0 for the empty sequence, independent of order and grouping
(spec/42_checksum_engine.md R141). -/
def Obligations.Sum8IsTheSumModulo256 : Prop :=
  sum8 [] = 0 ∧ (∀ b : List Byte, (sum8 b).toNat = (b.map BitVec.toNat).sum % 256) ∧
    (∀ a b : List Byte, a.Perm b → sum8 a = sum8 b) ∧ ∀ a b : List Byte, sum8 (a ++ b) = sum8 a + sum8 b

/-- `CK_COMPUTE(b)` is the one byte that makes `b` validate, and every packet ENCODE makes validates
(spec/42_checksum_engine.md R144). -/
def Obligations.ChecksumByteIsTheOnlyOne : Prop :=
  (∀ (b : List Byte) (x : Byte), ckValidateOf (b ++ [x]) = 1 ↔ x = ckComputeOf b) ∧
    ∀ (c : Cfg) (p : Pkt) (bytes : List Byte), encodePacket c p = .ok bytes → ckValidateOf bytes = 1

/-- CK_COMPUTE over the whole of `IN`: the two's complement of the sum, `st` = `Done`; its start clears the failure
registers; no other register changes. For ENCODE, the byte over every byte emitted before it
(spec/42_checksum_engine.md R142, spec/10_state.md R35, R41; the clearing is log entry 10). -/
def Obligations.CkComputeResult : Prop :=
  parseCmd 0b011 = .ckCompute ∧
    (∀ s : State, busy s = false →
      ∃ t : State, exec .ckCompute s = .next t ∧
        t.result.toNat = (256 - ((operandBytes s).map BitVec.toNat).sum % 256) % 256 ∧
        t = { s with result := t.result, st := .done, errKind := .none, errOff := 0 }) ∧
    ∀ (c : Cfg) (p : Pkt) (bytes : List Byte), encodePacket c p = .ok bytes →
      ∃ (b : List Byte) (x : Byte), bytes = b ++ [x] ∧ x.toNat = (256 - (b.map BitVec.toNat).sum % 256) % 256

/-- CK_VALIDATE over the whole of `IN`: 1 when the sum is 0 modulo 256, else 0; its start clears the failure registers;
no other register changes, `st` neither (spec/42_checksum_engine.md R143, spec/10_state.md R35, R41; the clearing is
log entry 10). -/
def Obligations.CkValidateResult : Prop :=
  parseCmd 0b100 = .ckValidate ∧
    ∀ s : State, busy s = false →
      ∃ t : State, exec .ckValidate s = .next t ∧
        t.result = (if ((operandBytes s).map BitVec.toNat).sum % 256 = 0 then 1 else 0) ∧
        t = { s with result := t.result, errKind := .none, errOff := 0 }

/-- Changing one byte of a buffer that validates makes it not validate, always (spec/42_checksum_engine.md R145). -/
def Obligations.SingleByteChangeIsDetected : Prop :=
  ∀ (s t : State) (a : Nat) (v : Byte), busy s = false → memWf s.inMem = true → a < s.inLen →
    v ≠ memRead s.inMem a → exec .ckValidate s = .next t → t.result = 1 →
    ∃ u : State, exec .ckValidate { s with inMem := memWrite s.inMem a v } = .next u ∧ u.result = 0

/-! ## The sequence tracker -/

/-- SEQ_OBSERVE: the report by the forward distance modulo 65536; `LAST_SEQ` is set to the observed value whatever
the report, so that it is the baseline of the next observation; nothing else is changed, and there is never a
failure (spec/45_sequence_tracker.md R191 to R194). -/
def Obligations.SeqObserveReports : Prop :=
  parseCmd 0b101 = .seqObserve ∧
    ∀ s : State, busy s = false →
      ∃ r : Report, exec .seqObserve s = .next { s with report := r, lastSeq := some s.operand } ∧
        match s.lastSeq with
        | none => r.kind = .continuous ∧ r.n = 0
        | some l =>
          let d := (s.operand.toNat + 65536 - l.toNat) % 65536
          (d = 1 → r.kind = .continuous ∧ r.n = 0) ∧ (d = 0 → r.kind = .duplicate ∧ r.n = 0) ∧
            (2 ≤ d → d ≤ 32767 → r.kind = .gap ∧ r.n.toNat = d - 1) ∧
            (32768 ≤ d → r.kind = .reorder ∧ r.n = 0)

/-- SEQ_RESET forgets the last value and nothing else, hardware reset does the same to it, and the next observation is
the baseline (spec/45_sequence_tracker.md R195). -/
def Obligations.SeqResetForgetsTheLast : Prop :=
  parseCmd 0b110 = .seqReset ∧ State.reset.lastSeq = none ∧
    ∀ (s : State) (v : Half), busy s = false →
      exec .seqReset s = .next { s with lastSeq := none } ∧
        ∃ u : State, exec .seqObserve { s with lastSeq := none, operand := v } = .next u ∧
          u.report.kind = .continuous ∧ u.lastSeq = some v

/-! ## The bit-field codec -/

/-- BF.EXTRACT hands back the field's bits as an unsigned number below 2^w, bit `i` of it being bit `lo + i` of the
span read big-endian, and changes nothing else (spec/40_bitfield_codec.md R101; where it is handed to is log entry
13). -/
def Obligations.BfExtractTakesTheField : Prop :=
  ∀ (s : State) (span : List Byte) (hi lo : Nat), lo ≤ hi → hi < 8 * span.length →
    ∃ v : Nat, exec (.bfExtract span hi lo) s = .next { s with ret := .value v } ∧ v < 2 ^ (hi - lo + 1) ∧
      ∀ i, i ≤ hi - lo → v.testBit i = (beNat span).testBit (lo + i)

/-- BF.PACK hands back a span of `k` bytes in which every field of the tiling holds its value: packing and extracting
are inverse (spec/40_bitfield_codec.md R102; where it is handed to is log entry 13). -/
def Obligations.BfPackThenExtractIsTheValue : Prop :=
  ∀ (s : State) (k : Nat) (fields : List FieldVal), wfPack k fields = true →
    ∃ b : List Byte, exec (.bfPack k fields) s = .next { s with ret := .span b } ∧ b.length = k ∧
      ∀ f ∈ fields, bfExtract b f.hi f.lo = f.value

/-- BF.CHKRSV: no effect on a match; on a mismatch ReservedBitMismatch at the offset in strict mode, the offset
appended to `WARN` in lenient mode. The mode is the one sampled at the start of the DECODE while one runs, and `MODE`
itself otherwise; that is what `effMode` is in the statements on the section decodes below
(spec/40_bitfield_codec.md R103, spec/10_state.md R31, spec/43_packet_decode.md R151; `MODE` itself otherwise is log
entry 27). -/
def Obligations.BfChkrsvAppliesThePolicy : Prop :=
  (∀ s : State, effMode s = if busy s = true then s.modeSample else s.mode) ∧
    ∀ (s : State) (span : List Byte) (hi lo const off : Nat), wfChkrsv span hi lo const = true →
      let m := if busy s = true then s.modeSample else s.mode
      (bfExtract span hi lo = const → exec (.bfChkrsv span hi lo const off) s = .next s) ∧
        (bfExtract span hi lo ≠ const → m = .strict →
          FailsWith (exec (.bfChkrsv span hi lo const off) s) .reservedBitMismatch off) ∧
        (bfExtract span hi lo ≠ const → m = .lenient →
          exec (.bfChkrsv span hi lo const off) s = .next { s with warn := s.warn ++ [off] })

/-! ## The section codecs, decoding. `b i` is byte `i` of `IN` as a number. A result is handed back in `ret` (log entry
13), and the caller moves the cursor (log entry 29). -/

/-- SEC.EXPECT: TruncatedBuffer when no byte is left, UnexpectedSectionId at the identifier otherwise than expected,
else no effect; the cursor is not moved (spec/41_section_codec.md R110). -/
def Obligations.SecExpectOutcome : Prop :=
  ∀ (s : State) (id : Byte),
    if s.n < s.cur + 1 then FailsWith (exec (.secExpect id) s) .truncatedBuffer s.n
    else if memRead s.inMem s.cur ≠ id then FailsWith (exec (.secExpect id) s) .unexpectedSectionId s.cur
    else exec (.secExpect id) s = .next s

/-- HDR.DEC: its checks in their order, then the header registers with 7 bytes consumed
(spec/41_section_codec.md R112; log entries 2, 13, 29). -/
def Obligations.HdrDecOutcome : Prop :=
  ∀ s : State, let b := inNat s; let x := exec .hdrDec s
    if s.n < 7 then FailsWith x .truncatedBuffer s.n
    else if b 0 * 256 + b 1 ≠ 0x9669 then FailsWith x .invalidMagic 0
    else if s.n < b 2 then FailsWith x .truncatedBuffer s.n
    else if b 3 / 16 < 1 ∨ 8 < b 3 / 16 then FailsWith x .invalidFrameRate 3
    else if effMode s = .strict ∧ b 3 % 16 ≠ 15 then FailsWith x .reservedBitMismatch 3
    else if effMode s = .strict ∧ b 4 % 2 ≠ 1 then FailsWith x .reservedBitMismatch 4
    else ∃ h : HeaderRegs,
      x = .next { s with
        warn := s.warn ++ warnIf (b 3 % 16 != 15) 3 ++ warnIf (b 4 % 2 != 1) 4, ret := .header h 7 } ∧
      h.id = 0x9669 ∧ h.len.toNat = b 2 ∧ h.fr.toNat = b 3 / 16 ∧ h.flags.tc.toNat = b 4 / 128 ∧
      h.flags.cc.toNat = b 4 / 64 % 2 ∧ h.flags.svc.toNat = b 4 / 32 % 2 ∧ h.flags.start.toNat = b 4 / 16 % 2 ∧
      h.flags.change.toNat = b 4 / 8 % 2 ∧ h.flags.complete.toNat = b 4 / 4 % 2 ∧
      h.flags.active.toNat = b 4 / 2 % 2 ∧ h.hseq.toNat = b 5 * 256 + b 6

/-- TC.DEC at the cursor: its checks in their order, then the six registers with 5 bytes consumed
(spec/41_section_codec.md R114; log entries 2, 13, 29). -/
def Obligations.TcDecOutcome : Prop :=
  ∀ s : State, let c := s.cur; let b := fun i => inNat s (c + i); let x := exec .tcDec s
    if s.n < c + 1 then FailsWith x .truncatedBuffer s.n
    else if b 0 ≠ 0x71 then FailsWith x .unexpectedSectionId c
    else if s.n < c + 5 then FailsWith x .truncatedBuffer s.n
    else if effMode s = .strict ∧ b 1 / 64 ≠ 3 then FailsWith x .reservedBitMismatch (c + 1)
    else if effMode s = .strict ∧ b 2 / 128 ≠ 1 then FailsWith x .reservedBitMismatch (c + 2)
    else if effMode s = .strict ∧ b 4 / 64 % 2 ≠ 0 then FailsWith x .reservedBitMismatch (c + 4)
    else ∃ t : TimeCode,
      x = .next { s with
        warn := s.warn ++ warnIf (b 1 / 64 != 3) (c + 1) ++ warnIf (b 2 / 128 != 1) (c + 2) ++
          warnIf (b 4 / 64 % 2 != 0) (c + 4)
        ret := .timeCode t 5 } ∧
      t.h.toNat = b 1 % 64 ∧ t.m.toNat = b 2 % 128 ∧ t.ff.toNat = b 3 / 128 ∧ t.s.toNat = b 3 % 128 ∧
      t.df.toNat = b 4 / 128 ∧ t.f.toNat = b 4 % 64

/-- CC.DEC at the cursor: the checks of the head in their order; then, in strict mode, the first triplet with a wrong
marker fails; otherwise the triplets with `2 + 3 * cnt` bytes consumed, and one warning per wrong marker, in order
(spec/41_section_codec.md R116, R117; log entries 2, 13, 29). -/
def Obligations.CcDecOutcome : Prop :=
  ∀ s : State, let c := s.cur; let b := fun i => inNat s (c + i); let x := exec .ccDec s
    let cnt := b 1 % 32; let bad := fun i => b (2 + 3 * i) / 8 != 31
    if s.n < c + 1 then FailsWith x .truncatedBuffer s.n
    else if b 0 ≠ 0x72 then FailsWith x .unexpectedSectionId c
    else if s.n < c + 2 then FailsWith x .truncatedBuffer s.n
    else if effMode s = .strict ∧ b 1 / 32 ≠ 7 then FailsWith x .reservedBitMismatch (c + 1)
    else if s.n < c + 2 + 3 * cnt then FailsWith x .truncatedBuffer s.n
    else
      (∀ i, effMode s = .strict → i < cnt → bad i = true → (∀ j, j < i → bad j = false) →
        FailsWith x .reservedBitMismatch (c + 2 + 3 * i)) ∧
      ((effMode s = .lenient ∨ ∀ i, i < cnt → bad i = false) →
        ∃ l : List Triplet,
          x = .next { s with
            warn := s.warn ++ warnIf (b 1 / 32 != 7) (c + 1) ++
              (List.range cnt).flatMap fun i => warnIf (bad i) (c + 2 + 3 * i)
            ret := .ccData l (2 + 3 * cnt) } ∧
          l.length = cnt ∧
          ∀ i, ∀ t : Triplet, l[i]? = some t →
            t.valid.toNat = b (2 + 3 * i) / 4 % 2 ∧ t.ccType.toNat = b (2 + 3 * i) % 4 ∧
            t.d1.toNat = b (3 + 3 * i) ∧ t.d2.toNat = b (4 + 3 * i))

/-- SVC.DEC at the cursor: the checks of the head in their order, then the entries with `2 + 7 * cnt` bytes consumed;
an entry has no marker and cannot fail (spec/41_section_codec.md R120, R121; log entries 2, 13, 29). -/
def Obligations.SvcDecOutcome : Prop :=
  ∀ s : State, let c := s.cur; let b := fun i => inNat s (c + i); let x := exec .svcDec s
    let cnt := b 1 % 32
    if s.n < c + 1 then FailsWith x .truncatedBuffer s.n
    else if b 0 ≠ 0x73 then FailsWith x .unexpectedSectionId c
    else if s.n < c + 2 then FailsWith x .truncatedBuffer s.n
    else if effMode s = .strict ∧ b 1 / 32 ≠ 7 then FailsWith x .reservedBitMismatch (c + 1)
    else if s.n < c + 2 + 7 * cnt then FailsWith x .truncatedBuffer s.n
    else ∃ l : List SvcEntry,
      x = .next { s with
        warn := s.warn ++ warnIf (b 1 / 32 != 7) (c + 1), ret := .svcInfo l (2 + 7 * cnt) } ∧
      l.length = cnt ∧
      ∀ j, ∀ e : SvcEntry, l[j]? = some e →
        e.sn.toNat = b (2 + 7 * j) ∧ e.attr.map BitVec.toNat = (List.range 6).map fun k => b (3 + 7 * j + k)

/-- CCT.DEC and SVE.DEC at an offset known to have the entry's bytes: the marker policy of a triplet, and the entry's
fields (spec/41_section_codec.md R117, R121; log entries 2, 13). -/
def Obligations.EntryDecodesOutcome : Prop :=
  (∀ (s : State) (o : Nat), o + 3 ≤ s.n →
      if effMode s = .strict ∧ inNat s o / 8 ≠ 31 then FailsWith (exec (.cctDec o) s) .reservedBitMismatch o
      else ∃ t : Triplet,
        exec (.cctDec o) s =
          .next { s with warn := s.warn ++ warnIf (inNat s o / 8 != 31) o, ret := .triplet t } ∧
        t.valid.toNat = inNat s o / 4 % 2 ∧ t.ccType.toNat = inNat s o % 4 ∧ t.d1.toNat = inNat s (o + 1) ∧
        t.d2.toNat = inNat s (o + 2)) ∧
    ∀ (s : State) (o : Nat), o + 7 ≤ s.n →
      ∃ e : SvcEntry, exec (.sveDec o) s = .next { s with ret := .entry e } ∧ e.sn.toNat = inNat s o ∧
        e.attr.map BitVec.toNat = (List.range 6).map fun k => inNat s (o + 1 + k)

/-- FTR.DEC at the cursor: identifier, availability, then the counter and the checksum byte with 4 bytes consumed;
`MODE` does not matter (spec/41_section_codec.md R124; log entries 2, 13, 29). -/
def Obligations.FtrDecOutcome : Prop :=
  ∀ s : State, let c := s.cur; let b := fun i => inNat s (c + i); let x := exec .ftrDec s
    if s.n < c + 1 then FailsWith x .truncatedBuffer s.n
    else if b 0 ≠ 0x74 then FailsWith x .unexpectedSectionId c
    else if s.n < c + 4 then FailsWith x .truncatedBuffer s.n
    else ∃ (fs : Half) (ck : Byte),
      x = .next { s with ret := .footer fs ck 4 } ∧ fs.toNat = b 1 * 256 + b 2 ∧ ck.toNat = b 3

/-- The reading operations leave everything but `WARN` and what they hand back alone; one that raises still leaves
the host's registers, `OUT`, the results, the cursor, `n` and the sampled mode alone, and nothing it found
(spec/60_exceptions.md R206, R207; log entries 13, 29; that a raise with no DECODE running leaves `F` undefined too is
log entry 32). -/
def Obligations.ReadersFrame : Prop :=
  ∀ (i : Instr) (s t : State), isReader i = true → exec i s = .next t →
    (t = { s with warn := t.warn, ret := t.ret }) ∨
      (t.st = .failed ∧ SameHostSide s t ∧ SameOut s t ∧ SameResults s t ∧ t.cur = s.cur ∧ t.n = s.n ∧
        t.modeSample = s.modeSample ∧ t.fWritten = [] ∧ t.pend = Pending.empty ∧ t.ret = .nothing)

/-! ## The section codecs, encoding -/

/-- HDR.ENC, TC.ENC and FTR.ENC append these bytes: the constants in the reserved fields, a placeholder in the length
byte, the footer counter from `F.HSEQ`
(spec/41_section_codec.md R113, R115, R125; the constants are log entry 2, the cursor log entry 29). -/
def Obligations.FixedSectionEncodes : Prop :=
  ∀ s : State, memWf s.outMem = true →
    let h := s.f.hdr; let fl := h.flags; let t := s.f.tc
    Appends (exec .hdrEnc s) s
        [0x96, 0x69, 0, h.fr ++ 0b1111#4,
          fl.tc ++ fl.cc ++ fl.svc ++ fl.start ++ fl.change ++ fl.complete ++ fl.active ++ 0b1#1,
          h.hseq.extractLsb' 8 8, h.hseq.extractLsb' 0 8] ∧
    Appends (exec .tcEnc s) s
        [0x71, 0b11#2 ++ t.h, 0b1#1 ++ t.m, t.ff ++ t.s, t.df ++ 0b0#1 ++ t.f] ∧
    Appends (exec .ftrEnc s) s [0x74, h.hseq.extractLsb' 8 8, h.hseq.extractLsb' 0 8]

/-- CC.ENC, CCT.ENC, SVC.ENC and SVE.ENC append these bytes: the identifier, the marker with the count, the entries
in order (spec/41_section_codec.md R118, R119, R122, R123; the constants are log entry 2, the cursor log entry 29). -/
def Obligations.CountedSectionEncodes : Prop :=
  ∀ s : State, memWf s.outMem = true →
    let triplet : Triplet → List Byte := fun t => [0b11111#5 ++ t.valid ++ t.ccType, t.d1, t.d2]
    (s.f.ccCount ≤ 31 →
      Appends (exec .ccEnc s) s ([0x72, 0b111#3 ++ BitVec.ofNat 5 s.f.ccCount] ++ (ccEntries s.f).flatMap triplet)) ∧
    (∀ t : Triplet, Appends (exec (.cctEnc t) s) s (triplet t)) ∧
    (s.f.svcCount ≤ 31 →
      Appends (exec .svcEnc s) s
        ([0x73, 0b111#3 ++ BitVec.ofNat 5 s.f.svcCount] ++ (svcEntries cfg s.f).flatMap fun e => e.sn :: e.attr)) ∧
    ∀ e : SvcEntry, e.attr.length = 6 → Appends (exec (.sveEnc e) s) s (e.sn :: e.attr)

/-! ## The wire elements, in the framing state in which each is due -/

/-- State Header: HEADER fails as HDR.DEC does, or its registers are pending, the cursor is 7 and the next state is
the first section the flags call for (spec/43_packet_decode.md R152, R153; the constants are log entry 2). -/
def Obligations.HeaderElementOutcome : Prop :=
  ∀ (s : State) (e : HeaderEl), s.st = .header → let x := exec (.header e) s
    if s.n < 7 then FailsWith x .truncatedBuffer s.n
    else if e.magic ≠ 0x9669 then FailsWith x .invalidMagic 0
    else if s.n < e.len.toNat then FailsWith x .truncatedBuffer s.n
    else if e.fr.toNat < 1 ∨ 8 < e.fr.toNat then FailsWith x .invalidFrameRate 3
    else if s.modeSample = .strict ∧ e.rsv ≠ 15 then FailsWith x .reservedBitMismatch 3
    else if s.modeSample = .strict ∧ e.flagsRsv ≠ 1 then FailsWith x .reservedBitMismatch 4
    else x = .next { s with
      warn := s.warn ++ warnIf (e.rsv != 15) 3 ++ warnIf (e.flagsRsv != 1) 4
      pend := { s.pend with hdr := ⟨e.magic, e.len, e.fr, e.flags, e.hseq⟩ }
      cur := 7
      st := if e.flags.tc = 1 then .timeCode else if e.flags.cc = 1 then .ccData
        else if e.flags.svc = 1 then .serviceInfo else .footer }

/-- State TimeCode: TIMECODE fails as TC.DEC does, or its registers are pending, the cursor is 5 further and the next
state follows the two remaining flags (spec/43_packet_decode.md R154, R153; the constants are log entry 2). -/
def Obligations.TimecodeElementOutcome : Prop :=
  ∀ (s : State) (e : TimeCodeEl), s.st = .timeCode → let c := s.cur; let x := exec (.timecode e) s
    if s.n < c + 1 then FailsWith x .truncatedBuffer s.n
    else if e.id ≠ 0x71 then FailsWith x .unexpectedSectionId c
    else if s.n < c + 5 then FailsWith x .truncatedBuffer s.n
    else if s.modeSample = .strict ∧ e.mkH ≠ 3 then FailsWith x .reservedBitMismatch (c + 1)
    else if s.modeSample = .strict ∧ e.mkM ≠ 1 then FailsWith x .reservedBitMismatch (c + 2)
    else if s.modeSample = .strict ∧ e.mkF ≠ 0 then FailsWith x .reservedBitMismatch (c + 4)
    else x = .next { s with
      warn := s.warn ++ warnIf (e.mkH != 3) (c + 1) ++ warnIf (e.mkM != 1) (c + 2) ++ warnIf (e.mkF != 0) (c + 4)
      pend := { s.pend with tc := some e.tc }
      cur := c + 5
      st := if s.pend.hdr.flags.cc = 1 then .ccData
        else if s.pend.hdr.flags.svc = 1 then .serviceInfo else .footer }

/-- State CcData: CCDATA_HEAD fails as lines 1 to 6 of CC.DEC do, or its count is pending with the cursor behind the
head, and with count 0 the section is over; then CC_TRIPLET at the cursor, under the marker policy, adds an entry and
moves the cursor behind it, and the last one leaves the state (spec/41_section_codec.md R116, R117;
spec/43_packet_decode.md R155; spec/10_state.md R33; entries as steps are log entry 1, a triplet without its bytes in
`IN` log entry 33). -/
def Obligations.CcElementsOutcome : Prop :=
  (∀ (s : State) (e : CountHeadEl), s.st = .ccData → s.pend.cc = none →
      let c := s.cur; let x := exec (.ccdataHead e) s
      let w := s.warn ++ warnIf (e.marker != 7) (c + 1)
      if s.n < c + 1 then FailsWith x .truncatedBuffer s.n
      else if e.id ≠ 0x72 then FailsWith x .unexpectedSectionId c
      else if s.n < c + 2 then FailsWith x .truncatedBuffer s.n
      else if s.modeSample = .strict ∧ e.marker ≠ 7 then FailsWith x .reservedBitMismatch (c + 1)
      else if s.n < c + 2 + 3 * e.count.toNat then FailsWith x .truncatedBuffer s.n
      else if e.count = 0 then x = .next { s with
        warn := w, pend := { s.pend with cc := some (0, []) }, cur := c + 2
        st := if s.pend.hdr.flags.svc = 1 then .serviceInfo else .footer }
      else x = .next { s with warn := w, pend := { s.pend with cc := some (e.count, []) }, cur := c + 2 }) ∧
    ∀ (s : State) (e : TripletEl) (cnt : BitVec 5) (l : List Triplet), s.st = .ccData →
      s.pend.cc = some (cnt, l) → l.length < cnt.toNat →
      let o := s.cur; let x := exec (.ccTriplet e) s
      let w := s.warn ++ warnIf (e.marker != 31) o
      if s.modeSample = .strict ∧ e.marker ≠ 31 then FailsWith x .reservedBitMismatch o
      else if l.length + 1 = cnt.toNat then x = .next { s with
        warn := w, pend := { s.pend with cc := some (cnt, l ++ [e.t]) }, cur := o + 3
        st := if s.pend.hdr.flags.svc = 1 then .serviceInfo else .footer }
      else x = .next { s with warn := w, pend := { s.pend with cc := some (cnt, l ++ [e.t]) }, cur := o + 3 }

/-- State ServiceInfo: SVCINFO_HEAD fails as lines 1 to 6 of SVC.DEC do, or its count is pending with the cursor behind
the head, and with count 0 the section is over; then SVC_ENTRY adds an entry and moves the cursor behind it, and the
last one goes to state Footer (spec/41_section_codec.md R120, R121; spec/43_packet_decode.md R156; spec/10_state.md
R33; entries as steps are log entry 1, an entry without its bytes in `IN` log entry 33). -/
def Obligations.SvcElementsOutcome : Prop :=
  (∀ (s : State) (e : CountHeadEl), s.st = .serviceInfo → s.pend.svc = none →
      let c := s.cur; let x := exec (.svcinfoHead e) s
      let w := s.warn ++ warnIf (e.marker != 7) (c + 1)
      if s.n < c + 1 then FailsWith x .truncatedBuffer s.n
      else if e.id ≠ 0x73 then FailsWith x .unexpectedSectionId c
      else if s.n < c + 2 then FailsWith x .truncatedBuffer s.n
      else if s.modeSample = .strict ∧ e.marker ≠ 7 then FailsWith x .reservedBitMismatch (c + 1)
      else if s.n < c + 2 + 7 * e.count.toNat then FailsWith x .truncatedBuffer s.n
      else if e.count = 0 then x = .next { s with
        warn := w, pend := { s.pend with svc := some (0, []) }, cur := c + 2, st := .footer }
      else x = .next { s with warn := w, pend := { s.pend with svc := some (e.count, []) }, cur := c + 2 }) ∧
    ∀ (s : State) (e : SvcEntry) (cnt : BitVec 5) (l : List SvcEntry), s.st = .serviceInfo →
      s.pend.svc = some (cnt, l) → l.length < cnt.toNat →
      exec (.svcEntry e) s =
        if l.length + 1 = cnt.toNat then .next { s with
          pend := { s.pend with svc := some (cnt, l ++ [e]) }, cur := s.cur + 7, st := .footer }
        else .next { s with pend := { s.pend with svc := some (cnt, l ++ [e]) }, cur := s.cur + 7 }

/-- State Footer: FOOTER fails as FTR.DEC does, then on the counter, then on the sum of the consumed span, then on
the length; otherwise `Done`, with the whole record in `F`, of which an entry of 7 bytes stands as it was read
(spec/43_packet_decode.md R157 to R160; the constants are log entry 2; that an entry of another width, which only a
state no run reaches holds, is read cut to 7 bytes or completed with free values is log entry 20). -/
def Obligations.FooterElementOutcome : Prop :=
  ∀ (s : State) (e : FooterEl), s.st = .footer → let c := s.cur; let x := exec (.footer e) s
    if s.n < c + 1 then FailsWith x .truncatedBuffer s.n
    else if e.id ≠ 0x74 then FailsWith x .unexpectedSectionId c
    else if s.n < c + 4 then FailsWith x .truncatedBuffer s.n
    else if e.fseq ≠ s.pend.hdr.hseq then FailsWith x .sequenceMismatch (c + 1)
    else if ((List.range (c + 4)).map (inNat s)).sum % 256 ≠ 0 then FailsWith x .checksumMismatch (c + 3)
    else if c + 4 ≠ s.pend.hdr.len.toNat then FailsWith x .lengthMismatch 2
    else ∃ t : State, x = .next t ∧
      bankPkt cfg t.f = ⟨s.pend.hdr, s.pend.tc, s.pend.cc.map Prod.snd,
        s.pend.svc.map fun p => wholeEntries cfg p.2, e.fseq, e.cksum⟩ ∧
      t = { s with
        st := .done, cur := c + 4, consumed := c + 4, sum := 0, f := t.f, fWritten := t.fWritten
        pend := Pending.empty }

/-- Every wire element leaves the host's registers, `IN`, `OUT`, the tracker, `RESULT`, `n` and the sampled mode
alone; one that raises leaves nothing defined or pending behind and the cursor where it stood; until the operation
ends `F`, `consumed`, `sum` and the failure registers stay too (spec/43_packet_decode.md R152 to R161,
spec/60_exceptions.md R206, R207; log entry 15). -/
def Obligations.WireElementsFrame : Prop :=
  ∀ (i : Instr) (s t : State), isWire i = true → exec i s = .next t →
    SameHostSide s t ∧ SameOut s t ∧ SameResults s t ∧ t.n = s.n ∧ t.modeSample = s.modeSample ∧
      (t.st = .failed ∧ t.cur = s.cur ∧ t.fWritten = [] ∧ t.pend = Pending.empty ∧ t.ret = .nothing ∨
        t.st = .done ∨
        SameBank s t ∧ t.consumed = s.consumed ∧ t.sum = s.sum ∧ SameErr s t ∧ t.ret = s.ret ∧ t.draws = s.draws)

/-- The forms that stop by name: a wire element where another thing is due (log entry 12), and every internal operation
outside the operands its rule names (log entry 21): BF.EXTRACT and BF.CHKRSV of a field outside the span, BF.CHKRSV of
a constant wider than the field, BF.PACK of triples that do not tile the span, CCT.DEC and SVE.DEC without the entry's
bytes, CC.ENC and SVC.ENC of more than 31 entries, SVE.ENC of an entry of another width. -/
def Obligations.OutOfPlaceFormsAreRefused : Prop :=
  (∀ (i : Instr) (s : State), isWire i = true → busy s = false → exec i s = .refused .elementNotDue) ∧
    (∀ (s : State) (slot : Slot) (b : List Byte) (i : Instr), isWire i = true → encode cfg i = some (slot, b) →
      slot ≠ slotOf s → exec i s = .refused .elementNotDue) ∧
    (∀ (s : State) (span : List Byte) (hi lo const off : Nat), (hi < lo ∨ 8 * span.length ≤ hi) →
      exec (.bfExtract span hi lo) s = .refused .outsideContract ∧
        exec (.bfChkrsv span hi lo const off) s = .refused .outsideContract) ∧
    (∀ (s : State) (span : List Byte) (hi lo const off : Nat), 2 ^ (hi - lo + 1) ≤ const →
      exec (.bfChkrsv span hi lo const off) s = .refused .outsideContract) ∧
    (∀ (s : State) (k : Nat) (fields : List FieldVal),
      (k = 0 ∨ (∃ f ∈ fields, f.hi < f.lo ∨ 8 * k ≤ f.hi ∨ 2 ^ (f.hi - f.lo + 1) ≤ f.value) ∨
        ∃ b, b < 8 * k ∧ (fields.filter fun f => decide (f.lo ≤ b ∧ b ≤ f.hi)).length ≠ 1) →
      exec (.bfPack k fields) s = .refused .outsideContract) ∧
    (∀ (s : State) (o : Nat), s.n < o + 3 → exec (.cctDec o) s = .refused .outsideContract) ∧
    (∀ (s : State) (o : Nat), s.n < o + 7 → exec (.sveDec o) s = .refused .outsideContract) ∧
    (∀ s : State, 31 < s.f.ccCount → exec .ccEnc s = .refused .outsideContract) ∧
    (∀ s : State, 31 < s.f.svcCount → exec .svcEnc s = .refused .outsideContract) ∧
    ∀ (s : State) (e : SvcEntry), e.attr.length ≠ 6 → exec (.sveEnc e) s = .refused .outsideContract

/-! ## The whole machine -/

/-- Every instruction and every step keeps both buffers in canonical form, under every configuration (the form is the
model's, log entry 4). -/
def Obligations.MemoryStaysCanonical : Prop :=
  (∀ (c : Cfg) (i : Instr) (s t : State), memoryOk s = true → execWith c i s = .next t → memoryOk t = true) ∧
    ∀ s t : State, memoryOk s = true → step s = .next t → memoryOk t = true

/-- Every instruction and every step keeps: no kind is shown but in `Failed`, and no offset without a kind. Every
instruction but CK_VALIDATE, which clears a kind and leaves `st` (log entry 10), keeps also that `Failed` shows its
kind. Both under every configuration (spec/10_state.md R32, R35). -/
def Obligations.FailureStatusStaysConsistent : Prop :=
  (∀ (c : Cfg) (i : Instr) (s t : State), KindShown s → execWith c i s = .next t → KindShown t) ∧
    (∀ s t : State, KindShown s → step s = .next t → KindShown t) ∧
    ∀ (c : Cfg) (i : Instr) (s t : State), i ≠ .ckValidate → StatusOk s → execWith c i s = .next t → StatusOk t

/-- Every step keeps the cursor within the bound of its framing state and of the entries read there, at most 326, the
offset within 9 bits, and a section being read short of its count (spec/10_state.md R33, R35;
spec/43_packet_decode.md R166; the default configuration is log entry 2). -/
def Obligations.FramingStaysInBounds : Prop :=
  ∀ s t : State, frameOk s = true → step s = .next t → frameOk t = true

/-- Who writes what, over all instructions: none writes `CMD`, `OPERAND`, `MODE` or `IN`; only SEQ_OBSERVE and
SEQ_RESET write the tracker; only the checksum commands write `RESULT`; only ENCODE and the section encoders write
`OUT`; none of these, nor NOP, writes `F`; only a decode, an encode, CK_COMPUTE and a raise write `st`; under every
configuration (spec/10_state.md R41, spec/20_memory.md R63; that `CMD` stays is log entry 8, that a raise of an
internal operation may write `F` log entry 32). -/
def Obligations.OnlyTheOwnersWrite : Prop :=
  ∀ (c : Cfg) (i : Instr) (s t : State), execWith c i s = .next t →
    SameHostSide s t ∧ (i = .decode ∨ i = .encode ∨ i = .ckCompute ∨ isWire i = true ∨ t.st = .failed ∨ t.st = s.st) ∧ (i = .seqObserve ∨ i = .seqReset ∨ t.lastSeq = s.lastSeq) ∧
      (i = .seqObserve ∨ t.report = s.report) ∧ (i = .ckCompute ∨ i = .ckValidate ∨ t.result = s.result) ∧
      (i = .encode ∨ isEmitter i = true ∨ SameOut s t) ∧
      (i = .decode ∨ isWire i = true ∨ isReader i = true ∨ SameBank s t)
end

