-- ==== Sys2Proof/Laws/Checks.lean ====
section
/-! SUPPORT. Laws/Checks.lean: what a list of checks can answer, and the laws of the checksum. -/

namespace Sys2Proof.Machine

@[simp] theorem chk_true (m : Mode) (w : List Nat) (off : Nat) : chk m w true off = .ok w := rfl

@[simp] theorem chk_strict_false (w : List Nat) (off : Nat) :
    chk .strict w false off = .error ⟨.reservedBitMismatch, off⟩ := rfl

@[simp] theorem chk_lenient_false (w : List Nat) (off : Nat) : chk .lenient w false off = .ok (w ++ [off]) := rfl

@[simp] theorem runChecks_nil (m : Mode) (w : List Nat) : runChecks m w [] = .ok w := rfl

@[simp] theorem runChecks_must_true (m : Mode) (w : List Nat) (k : ErrKind) (o : Nat) (cs : List Check) :
    runChecks m w (.must true k o :: cs) = runChecks m w cs := rfl

@[simp] theorem runChecks_must_false (m : Mode) (w : List Nat) (k : ErrKind) (o : Nat) (cs : List Check) :
    runChecks m w (.must false k o :: cs) = .error ⟨k, o⟩ := rfl

@[simp] theorem runChecks_rsv_true (m : Mode) (w : List Nat) (o : Nat) (cs : List Check) :
    runChecks m w (.rsv true o :: cs) = runChecks m w cs := rfl

@[simp] theorem runChecks_rsv_strict_false (w : List Nat) (o : Nat) (cs : List Check) :
    runChecks .strict w (.rsv false o :: cs) = .error ⟨.reservedBitMismatch, o⟩ := rfl

@[simp] theorem runChecks_rsv_lenient_false (w : List Nat) (o : Nat) (cs : List Check) :
    runChecks .lenient w (.rsv false o :: cs) = runChecks .lenient (w ++ [o]) cs := rfl

/-- Checks one list after another. -/
theorem runChecks_append (m : Mode) (cs ds : List Check) (w : List Nat) :
    runChecks m w (cs ++ ds) =
      match runChecks m w cs with
      | .error r => .error r
      | .ok w' => runChecks m w' ds := by
  induction cs generalizing w with
  | nil => rfl
  | cons c cs ih =>
    cases c with
    | must ok k o => cases ok <;> simp [ih]
    | rsv ok o => cases ok <;> cases m <;> simp [ih]

/-- A check that passes whatever the policy. -/
def checkHolds : Check → Bool
  | .must ok _ _ => ok
  | .rsv ok _ => ok

/-- When every check holds the list passes and records nothing. -/
theorem runChecks_of_all (m : Mode) (w : List Nat) :
    ∀ {cs : List Check}, cs.all checkHolds = true → runChecks m w cs = .ok w
  | [], _ => rfl
  | .must ok k o :: cs, h => by
    simp only [List.all_cons, checkHolds, Bool.and_eq_true] at h
    rw [h.1, runChecks_must_true, runChecks_of_all m w h.2]
  | .rsv ok o :: cs, h => by
    simp only [List.all_cons, checkHolds, Bool.and_eq_true] at h
    rw [h.1, runChecks_rsv_true, runChecks_of_all m w h.2]

/-- A strict list that passes records nothing, and every check of it holds. -/
theorem runChecks_strict_ok {w w' : List Nat} :
    ∀ {cs : List Check}, runChecks .strict w cs = .ok w' → w' = w ∧ cs.all checkHolds = true
  | [], h => by simpa using h.symm
  | .must ok k o :: cs, h => by
    cases ok
    · simp at h
    · simpa [checkHolds] using runChecks_strict_ok (cs := cs) h
  | .rsv ok o :: cs, h => by
    cases ok
    · simp at h
    · simpa [checkHolds] using runChecks_strict_ok (cs := cs) h

/-- In either policy a list that passes has every `must` check holding. -/
theorem runChecks_must_of_ok {m : Mode} {w w' : List Nat} {cs : List Check} {ok : Bool} {k : ErrKind} {o : Nat}
    (h : runChecks m w cs = .ok w') (hc : Check.must ok k o ∈ cs) : ok = true := by
  induction cs generalizing w with
  | nil => simp at hc
  | cons c cs ih =>
    cases c with
    | must ok2 k2 o2 =>
      cases ok2
      · simp at h
      · rcases List.mem_cons.1 hc with hc | hc
        · exact (Check.must.inj hc).1
        · exact ih h hc
    | rsv ok2 o2 =>
      have hc' : Check.must ok k o ∈ cs := by simpa using hc
      cases ok2 <;> cases m <;> simp at h
      · exact ih h hc'
      · exact ih h hc'
      · exact ih h hc'

/-- `yield` answers its value, with the warnings of its checks, exactly when they pass. -/
theorem yield_ok {α : Type} {m : Mode} {w w' : List Nat} {cs : List Check} {a b : α} :
    yield m w cs a = .ok (b, w') ↔ runChecks m w cs = .ok w' ∧ b = a := by
  unfold yield
  split <;> rename_i h <;> simp [h]
  exact ⟨fun ⟨x, y⟩ => ⟨y, x.symm⟩, fun ⟨x, y⟩ => ⟨y.symm, x⟩⟩

/-- `yield` fails exactly as its checks do. -/
theorem yield_error {α : Type} {m : Mode} {w : List Nat} {cs : List Check} {a : α} {r : Raise} :
    yield m w cs a = .error r ↔ runChecks m w cs = .error r := by
  unfold yield
  split <;> rename_i h <;> simp [h]

@[simp] theorem sum8_nil : sum8 [] = 0 := rfl

theorem foldl_add (b : List Byte) (x : Byte) : b.foldl (fun acc b => acc + b) x = x + sum8 b := by
  induction b generalizing x with
  | nil => simp
  | cons y b ih =>
    show b.foldl _ (x + y) = x + b.foldl _ (0 + y)
    rw [ih, ih (0 + y)]
    simp [BitVec.add_assoc]

@[simp] theorem sum8_cons (x : Byte) (b : List Byte) : sum8 (x :: b) = x + sum8 b := by
  show b.foldl _ (0 + x) = _
  rw [foldl_add]
  simp

@[simp] theorem sum8_append (a b : List Byte) : sum8 (a ++ b) = sum8 a + sum8 b := by
  induction a with
  | nil => simp
  | cons x a ih => simp [ih, BitVec.add_assoc]

/-- `neg8` is the two's complement. -/
theorem neg8_eq_neg (x : Byte) : neg8 x = -x := by
  apply BitVec.eq_of_toNat_eq
  simp [neg8, BitVec.toNat_neg]

end Sys2Proof.Machine
end

