-- ==== Sys2Proof/Laws/Memory.lean ====
section
/-! SUPPORT. Laws/Memory.lean: the laws of the byte memories: every write keeps the canonical form, a read after a
write to the same place gives the value written, and a write leaves every other place alone. -/

namespace Sys2Proof.Machine

@[simp] theorem memRead_nil (a : Nat) : memRead [] a = 0 := rfl

@[simp] theorem memWf_nil : memWf [] = true := rfl

/-- All addresses of a memory lie above `a`. -/
def allAbove (a : Nat) : Memory → Prop
  | [] => True
  | (k, _) :: rest => a < k ∧ allAbove a rest

theorem memWf_cons {a : Nat} {v : Byte} {m : Memory} :
    memWf ((a, v) :: m) = true ↔ v ≠ 0 ∧ allAbove a m ∧ memWf m = true := by
  induction m generalizing a v with
  | nil => simp [memWf, allAbove]
  | cons p m ih =>
    obtain ⟨b, w⟩ := p
    have key : ∀ {x : Nat} {l : Memory}, a < b → allAbove b l → x = a → allAbove a l := by
      intro x l hab
      induction l with
      | nil => intro _ _; trivial
      | cons q l ihl =>
        obtain ⟨c, u⟩ := q
        rintro ⟨h1, h2⟩ hx
        exact ⟨Nat.lt_trans hab h1, ihl h2 hx⟩
    constructor
    · intro h
      simp only [memWf, Bool.and_eq_true, bne_iff_ne, decide_eq_true_eq] at h
      obtain ⟨⟨hv, hab⟩, hm⟩ := h
      have hw := (ih (a := b) (v := w)).1 hm
      exact ⟨hv, ⟨hab, key hab hw.2.1 (x := a) rfl⟩, hm⟩
    · rintro ⟨hv, ⟨hab, _⟩, hm⟩
      simp only [memWf, Bool.and_eq_true, bne_iff_ne, decide_eq_true_eq]
      exact ⟨⟨hv, hab⟩, hm⟩

theorem allAbove_mono {a b : Nat} (hab : a ≤ b) : ∀ {m : Memory}, allAbove b m → allAbove a m
  | [], _ => trivial
  | (_, _) :: _, ⟨h1, h2⟩ => ⟨Nat.lt_of_le_of_lt hab h1, allAbove_mono hab h2⟩

/-- Below all its addresses a memory lists nothing. -/
theorem memRead_of_allAbove {a : Nat} : ∀ {m : Memory}, allAbove a m → memRead m a = 0
  | [], _ => rfl
  | (k, v) :: m, ⟨h1, h2⟩ => by
    have hk : k ≠ a := by omega
    simp [memRead, hk, memRead_of_allAbove h2]

theorem allAbove_memWrite {a b : Nat} {v : Byte} (hab : a < b) :
    ∀ {m : Memory}, allAbove a m → allAbove a (memWrite m b v)
  | [], _ => by
    unfold memWrite
    split <;> simp [allAbove, hab]
  | (k, w) :: m, ⟨h1, h2⟩ => by
    unfold memWrite
    split
    · split
      · exact ⟨h1, h2⟩
      · exact ⟨hab, h1, h2⟩
    · split
      · split
        · exact h2
        · exact ⟨hab, h2⟩
      · exact ⟨h1, allAbove_memWrite hab h2⟩

/-- A write keeps the canonical form. -/
theorem memWrite_wf {a : Nat} {v : Byte} : ∀ {m : Memory}, memWf m = true → memWf (memWrite m a v) = true
  | [], _ => by
    unfold memWrite
    split
    · rfl
    · simpa [memWf] using ‹_›
  | (k, w) :: m, h => by
    obtain ⟨hw, hab, hm⟩ := memWf_cons.1 h
    unfold memWrite
    split
    · split
      · exact h
      · exact memWf_cons.2 ⟨‹_›, ⟨‹_›, allAbove_mono (Nat.le_of_lt ‹_›) hab⟩, h⟩
    · split
      · split
        · exact hm
        · subst k
          exact memWf_cons.2 ⟨‹_›, hab, hm⟩
      · exact memWf_cons.2 ⟨hw, allAbove_memWrite (by omega) hab, memWrite_wf hm⟩

/-- A read of another address does not see a write. -/
theorem memRead_memWrite_other {a b : Nat} {v : Byte} (hab : b ≠ a) :
    ∀ m : Memory, memRead (memWrite m a v) b = memRead m b
  | [] => by
    unfold memWrite
    split <;> simp [memRead, Ne.symm hab]
  | (k, w) :: m => by
    unfold memWrite
    split
    · split
      · rfl
      · simp [memRead, Ne.symm hab]
    · split
      · subst k
        split <;> simp [memRead, Ne.symm hab]
      · simp [memRead, memRead_memWrite_other hab m]

/-- A read of the address written gives the value written, in a memory in canonical form. -/
theorem memRead_memWrite_same {a : Nat} {v : Byte} :
    ∀ {m : Memory}, memWf m = true → memRead (memWrite m a v) a = v
  | [], _ => by
    unfold memWrite
    split <;> simp_all [memRead]
  | (k, w) :: m, h => by
    obtain ⟨_, hab, hm⟩ := memWf_cons.1 h
    unfold memWrite
    split
    · split
      · subst v
        have hk : k ≠ a := by omega
        simp [memRead, hk, memRead_of_allAbove (allAbove_mono (Nat.le_of_lt ‹_›) hab)]
      · simp [memRead]
    · split
      · subst k
        split
        · subst v
          exact memRead_of_allAbove hab
        · simp [memRead]
      · have hk : k ≠ a := fun e => ‹¬a = k› e.symm
        simp [memRead, hk, memRead_memWrite_same hm]

theorem memWriteBytes_wf : ∀ {bytes : List Byte} {m : Memory} {a : Nat},
    memWf m = true → memWf (memWriteBytes m a bytes) = true
  | [], _, _, h => h
  | x :: bytes, m, a, h => memWriteBytes_wf (bytes := bytes) (m := memWrite m a x) (a := a + 1) (memWrite_wf h)

/-- Bytes outside those written read as before. -/
theorem memRead_memWriteBytes_other : ∀ {bytes : List Byte} {m : Memory} {a b : Nat},
    (b < a ∨ a + bytes.length ≤ b) → memRead (memWriteBytes m a bytes) b = memRead m b
  | [], _, _, _, _ => rfl
  | x :: bytes, m, a, b, h => by
    simp only [List.length_cons] at h
    rw [memWriteBytes, memRead_memWriteBytes_other (by omega), memRead_memWrite_other (by omega)]

/-- The bytes written are read back, in a memory in canonical form. -/
theorem memRead_memWriteBytes_at : ∀ {bytes : List Byte} {m : Memory} {a i : Nat},
    memWf m = true → i < bytes.length → memRead (memWriteBytes m a bytes) (a + i) = bytes.getD i 0
  | [], _, _, _, _, h => absurd h (Nat.not_lt_zero _)
  | x :: bytes, m, a, 0, hm, _ => by
    rw [memWriteBytes, memRead_memWriteBytes_other (Or.inl (by omega)), Nat.add_zero, memRead_memWrite_same hm]
    rfl
  | x :: bytes, m, a, i + 1, hm, h => by
    have h' : i < bytes.length := by simpa using h
    have := memRead_memWriteBytes_at (a := a + 1) (i := i) (memWrite_wf (a := a) (v := x) hm) h'
    rw [memWriteBytes, show a + (i + 1) = a + 1 + i by omega, this]
    rfl

@[simp] theorem memSpan_length (m : Memory) (a k : Nat) : (memSpan m a k).length = k := by
  simp [memSpan]

/-- The span written is the span read. -/
theorem memSpan_memWriteBytes {bytes : List Byte} {m : Memory} {a : Nat} (hm : memWf m = true) :
    memSpan (memWriteBytes m a bytes) a bytes.length = bytes := by
  refine List.ext_getElem (by simp) fun i h1 h2 => ?_
  have hi : i < bytes.length := h2
  simp [memSpan, memRead_memWriteBytes_at hm hi, List.getD_eq_getElem?_getD, hi]

end Sys2Proof.Machine
end

