-- ==== Sys2Proof/Laws/State.lean ====
section
/-! SUPPORT. Laws/State.lean: what each named update of the state leaves in each field. -/

namespace Sys2Proof.Machine

@[simp] theorem raiseDecode_cmd (c : Cfg) (s : State) (r : Raise) : (raiseDecode c s r).cmd = s.cmd := rfl
@[simp] theorem raiseDecode_operand (c : Cfg) (s : State) (r : Raise) : (raiseDecode c s r).operand = s.operand := rfl
@[simp] theorem raiseDecode_mode (c : Cfg) (s : State) (r : Raise) : (raiseDecode c s r).mode = s.mode := rfl
@[simp] theorem raiseDecode_inMem (c : Cfg) (s : State) (r : Raise) : (raiseDecode c s r).inMem = s.inMem := rfl
@[simp] theorem raiseDecode_inLen (c : Cfg) (s : State) (r : Raise) : (raiseDecode c s r).inLen = s.inLen := rfl
@[simp] theorem raiseDecode_f (c : Cfg) (s : State) (r : Raise) : (raiseDecode c s r).f = unspecifiedBank c s.draws := rfl
@[simp] theorem raiseDecode_fWritten (c : Cfg) (s : State) (r : Raise) : (raiseDecode c s r).fWritten = [] := rfl
@[simp] theorem raiseDecode_st (c : Cfg) (s : State) (r : Raise) : (raiseDecode c s r).st = .failed := rfl
@[simp] theorem raiseDecode_cur (c : Cfg) (s : State) (r : Raise) : (raiseDecode c s r).cur = s.cur := rfl
@[simp] theorem raiseDecode_n (c : Cfg) (s : State) (r : Raise) : (raiseDecode c s r).n = s.n := rfl
@[simp] theorem raiseDecode_consumed (c : Cfg) (s : State) (r : Raise) : (raiseDecode c s r).consumed = Config.freeConsumed s.draws := rfl
@[simp] theorem raiseDecode_sum (c : Cfg) (s : State) (r : Raise) : (raiseDecode c s r).sum = Config.freeSum s.draws := rfl
@[simp] theorem raiseDecode_modeSample (c : Cfg) (s : State) (r : Raise) : (raiseDecode c s r).modeSample = s.modeSample := rfl
@[simp] theorem raiseDecode_pend (c : Cfg) (s : State) (r : Raise) : (raiseDecode c s r).pend = Pending.empty := rfl
@[simp] theorem raiseDecode_errKind (c : Cfg) (s : State) (r : Raise) : (raiseDecode c s r).errKind = r.kind := rfl
@[simp] theorem raiseDecode_errOff (c : Cfg) (s : State) (r : Raise) : (raiseDecode c s r).errOff = r.off := rfl
@[simp] theorem raiseDecode_warn (c : Cfg) (s : State) (r : Raise) : (raiseDecode c s r).warn = Config.freeWarn s.draws := rfl
@[simp] theorem raiseDecode_outMem (c : Cfg) (s : State) (r : Raise) : (raiseDecode c s r).outMem = s.outMem := rfl
@[simp] theorem raiseDecode_outLen (c : Cfg) (s : State) (r : Raise) : (raiseDecode c s r).outLen = s.outLen := rfl
@[simp] theorem raiseDecode_result (c : Cfg) (s : State) (r : Raise) : (raiseDecode c s r).result = s.result := rfl
@[simp] theorem raiseDecode_report (c : Cfg) (s : State) (r : Raise) : (raiseDecode c s r).report = s.report := rfl
@[simp] theorem raiseDecode_lastSeq (c : Cfg) (s : State) (r : Raise) : (raiseDecode c s r).lastSeq = s.lastSeq := rfl
@[simp] theorem raiseDecode_ret (c : Cfg) (s : State) (r : Raise) : (raiseDecode c s r).ret = .nothing := rfl
@[simp] theorem raiseDecode_draws (c : Cfg) (s : State) (r : Raise) : (raiseDecode c s r).draws = s.draws + 1 := rfl

@[simp] theorem startDecode_cmd (c : Cfg) (s : State) : (startDecode c s).cmd = s.cmd := rfl
@[simp] theorem startDecode_operand (c : Cfg) (s : State) : (startDecode c s).operand = s.operand := rfl
@[simp] theorem startDecode_mode (c : Cfg) (s : State) : (startDecode c s).mode = s.mode := rfl
@[simp] theorem startDecode_inMem (c : Cfg) (s : State) : (startDecode c s).inMem = s.inMem := rfl
@[simp] theorem startDecode_inLen (c : Cfg) (s : State) : (startDecode c s).inLen = s.inLen := rfl
@[simp] theorem startDecode_f (c : Cfg) (s : State) : (startDecode c s).f = unspecifiedBank c s.draws := rfl
@[simp] theorem startDecode_fWritten (c : Cfg) (s : State) : (startDecode c s).fWritten = [] := rfl
@[simp] theorem startDecode_st (c : Cfg) (s : State) : (startDecode c s).st = .header := rfl
@[simp] theorem startDecode_cur (c : Cfg) (s : State) : (startDecode c s).cur = 0 := rfl
@[simp] theorem startDecode_n (c : Cfg) (s : State) : (startDecode c s).n = s.inLen := rfl
@[simp] theorem startDecode_consumed (c : Cfg) (s : State) : (startDecode c s).consumed = 0 := rfl
@[simp] theorem startDecode_sum (c : Cfg) (s : State) : (startDecode c s).sum = 0 := rfl
@[simp] theorem startDecode_modeSample (c : Cfg) (s : State) : (startDecode c s).modeSample = s.mode := rfl
@[simp] theorem startDecode_pend (c : Cfg) (s : State) : (startDecode c s).pend = Pending.empty := rfl
@[simp] theorem startDecode_errKind (c : Cfg) (s : State) : (startDecode c s).errKind = .none := rfl
@[simp] theorem startDecode_errOff (c : Cfg) (s : State) : (startDecode c s).errOff = 0 := rfl
@[simp] theorem startDecode_warn (c : Cfg) (s : State) : (startDecode c s).warn = [] := rfl
@[simp] theorem startDecode_outMem (c : Cfg) (s : State) : (startDecode c s).outMem = s.outMem := rfl
@[simp] theorem startDecode_outLen (c : Cfg) (s : State) : (startDecode c s).outLen = s.outLen := rfl
@[simp] theorem startDecode_result (c : Cfg) (s : State) : (startDecode c s).result = s.result := rfl
@[simp] theorem startDecode_report (c : Cfg) (s : State) : (startDecode c s).report = s.report := rfl
@[simp] theorem startDecode_lastSeq (c : Cfg) (s : State) : (startDecode c s).lastSeq = s.lastSeq := rfl
@[simp] theorem startDecode_ret (c : Cfg) (s : State) : (startDecode c s).ret = s.ret := rfl
@[simp] theorem startDecode_draws (c : Cfg) (s : State) : (startDecode c s).draws = s.draws + 1 := rfl

@[simp] theorem finishDecode_cmd (c : Cfg) (s : State) (p : Pkt) (k : Nat) (x : Byte) (w : List Nat) : (finishDecode c s p k x w).cmd = s.cmd := rfl
@[simp] theorem finishDecode_operand (c : Cfg) (s : State) (p : Pkt) (k : Nat) (x : Byte) (w : List Nat) : (finishDecode c s p k x w).operand = s.operand := rfl
@[simp] theorem finishDecode_mode (c : Cfg) (s : State) (p : Pkt) (k : Nat) (x : Byte) (w : List Nat) : (finishDecode c s p k x w).mode = s.mode := rfl
@[simp] theorem finishDecode_inMem (c : Cfg) (s : State) (p : Pkt) (k : Nat) (x : Byte) (w : List Nat) : (finishDecode c s p k x w).inMem = s.inMem := rfl
@[simp] theorem finishDecode_inLen (c : Cfg) (s : State) (p : Pkt) (k : Nat) (x : Byte) (w : List Nat) : (finishDecode c s p k x w).inLen = s.inLen := rfl
@[simp] theorem finishDecode_f (c : Cfg) (s : State) (p : Pkt) (k : Nat) (x : Byte) (w : List Nat) : (finishDecode c s p k x w).f = loadBank s.f p := rfl
@[simp] theorem finishDecode_fWritten (c : Cfg) (s : State) (p : Pkt) (k : Nat) (x : Byte) (w : List Nat) : (finishDecode c s p k x w).fWritten = pktRegs c p := rfl
@[simp] theorem finishDecode_st (c : Cfg) (s : State) (p : Pkt) (k : Nat) (x : Byte) (w : List Nat) : (finishDecode c s p k x w).st = .done := rfl
@[simp] theorem finishDecode_cur (c : Cfg) (s : State) (p : Pkt) (k : Nat) (x : Byte) (w : List Nat) : (finishDecode c s p k x w).cur = k := rfl
@[simp] theorem finishDecode_n (c : Cfg) (s : State) (p : Pkt) (k : Nat) (x : Byte) (w : List Nat) : (finishDecode c s p k x w).n = s.n := rfl
@[simp] theorem finishDecode_consumed (c : Cfg) (s : State) (p : Pkt) (k : Nat) (x : Byte) (w : List Nat) : (finishDecode c s p k x w).consumed = k := rfl
@[simp] theorem finishDecode_sum (c : Cfg) (s : State) (p : Pkt) (k : Nat) (x : Byte) (w : List Nat) : (finishDecode c s p k x w).sum = x := rfl
@[simp] theorem finishDecode_modeSample (c : Cfg) (s : State) (p : Pkt) (k : Nat) (x : Byte) (w : List Nat) : (finishDecode c s p k x w).modeSample = s.modeSample := rfl
@[simp] theorem finishDecode_pend (c : Cfg) (s : State) (p : Pkt) (k : Nat) (x : Byte) (w : List Nat) : (finishDecode c s p k x w).pend = Pending.empty := rfl
@[simp] theorem finishDecode_errKind (c : Cfg) (s : State) (p : Pkt) (k : Nat) (x : Byte) (w : List Nat) : (finishDecode c s p k x w).errKind = s.errKind := rfl
@[simp] theorem finishDecode_errOff (c : Cfg) (s : State) (p : Pkt) (k : Nat) (x : Byte) (w : List Nat) : (finishDecode c s p k x w).errOff = s.errOff := rfl
@[simp] theorem finishDecode_warn (c : Cfg) (s : State) (p : Pkt) (k : Nat) (x : Byte) (w : List Nat) : (finishDecode c s p k x w).warn = w := rfl
@[simp] theorem finishDecode_outMem (c : Cfg) (s : State) (p : Pkt) (k : Nat) (x : Byte) (w : List Nat) : (finishDecode c s p k x w).outMem = s.outMem := rfl
@[simp] theorem finishDecode_outLen (c : Cfg) (s : State) (p : Pkt) (k : Nat) (x : Byte) (w : List Nat) : (finishDecode c s p k x w).outLen = s.outLen := rfl
@[simp] theorem finishDecode_result (c : Cfg) (s : State) (p : Pkt) (k : Nat) (x : Byte) (w : List Nat) : (finishDecode c s p k x w).result = s.result := rfl
@[simp] theorem finishDecode_report (c : Cfg) (s : State) (p : Pkt) (k : Nat) (x : Byte) (w : List Nat) : (finishDecode c s p k x w).report = s.report := rfl
@[simp] theorem finishDecode_lastSeq (c : Cfg) (s : State) (p : Pkt) (k : Nat) (x : Byte) (w : List Nat) : (finishDecode c s p k x w).lastSeq = s.lastSeq := rfl
@[simp] theorem finishDecode_ret (c : Cfg) (s : State) (p : Pkt) (k : Nat) (x : Byte) (w : List Nat) : (finishDecode c s p k x w).ret = s.ret := rfl
@[simp] theorem finishDecode_draws (c : Cfg) (s : State) (p : Pkt) (k : Nat) (x : Byte) (w : List Nat) : (finishDecode c s p k x w).draws = s.draws := rfl

@[simp] theorem startEncode_cmd (s : State) : (startEncode s).cmd = s.cmd := rfl
@[simp] theorem startEncode_operand (s : State) : (startEncode s).operand = s.operand := rfl
@[simp] theorem startEncode_mode (s : State) : (startEncode s).mode = s.mode := rfl
@[simp] theorem startEncode_inMem (s : State) : (startEncode s).inMem = s.inMem := rfl
@[simp] theorem startEncode_inLen (s : State) : (startEncode s).inLen = s.inLen := rfl
@[simp] theorem startEncode_f (s : State) : (startEncode s).f = s.f := rfl
@[simp] theorem startEncode_fWritten (s : State) : (startEncode s).fWritten = s.fWritten := rfl
@[simp] theorem startEncode_st (s : State) : (startEncode s).st = .header := rfl
@[simp] theorem startEncode_cur (s : State) : (startEncode s).cur = 0 := rfl
@[simp] theorem startEncode_n (s : State) : (startEncode s).n = s.n := rfl
@[simp] theorem startEncode_consumed (s : State) : (startEncode s).consumed = 0 := rfl
@[simp] theorem startEncode_sum (s : State) : (startEncode s).sum = 0 := rfl
@[simp] theorem startEncode_modeSample (s : State) : (startEncode s).modeSample = s.modeSample := rfl
@[simp] theorem startEncode_pend (s : State) : (startEncode s).pend = s.pend := rfl
@[simp] theorem startEncode_errKind (s : State) : (startEncode s).errKind = .none := rfl
@[simp] theorem startEncode_errOff (s : State) : (startEncode s).errOff = 0 := rfl
@[simp] theorem startEncode_warn (s : State) : (startEncode s).warn = s.warn := rfl
@[simp] theorem startEncode_outMem (s : State) : (startEncode s).outMem = s.outMem := rfl
@[simp] theorem startEncode_outLen (s : State) : (startEncode s).outLen = s.outLen := rfl
@[simp] theorem startEncode_result (s : State) : (startEncode s).result = s.result := rfl
@[simp] theorem startEncode_report (s : State) : (startEncode s).report = s.report := rfl
@[simp] theorem startEncode_lastSeq (s : State) : (startEncode s).lastSeq = s.lastSeq := rfl
@[simp] theorem startEncode_ret (s : State) : (startEncode s).ret = s.ret := rfl
@[simp] theorem startEncode_draws (s : State) : (startEncode s).draws = s.draws := rfl

@[simp] theorem failEncode_cmd (c : Cfg) (s : State) (r : Raise) : (failEncode c s r).cmd = s.cmd := rfl
@[simp] theorem failEncode_operand (c : Cfg) (s : State) (r : Raise) : (failEncode c s r).operand = s.operand := rfl
@[simp] theorem failEncode_mode (c : Cfg) (s : State) (r : Raise) : (failEncode c s r).mode = s.mode := rfl
@[simp] theorem failEncode_inMem (c : Cfg) (s : State) (r : Raise) : (failEncode c s r).inMem = s.inMem := rfl
@[simp] theorem failEncode_inLen (c : Cfg) (s : State) (r : Raise) : (failEncode c s r).inLen = s.inLen := rfl
@[simp] theorem failEncode_f (c : Cfg) (s : State) (r : Raise) : (failEncode c s r).f = s.f := rfl
@[simp] theorem failEncode_fWritten (c : Cfg) (s : State) (r : Raise) : (failEncode c s r).fWritten = s.fWritten := rfl
@[simp] theorem failEncode_st (c : Cfg) (s : State) (r : Raise) : (failEncode c s r).st = .failed := rfl
@[simp] theorem failEncode_cur (c : Cfg) (s : State) (r : Raise) : (failEncode c s r).cur = s.cur := rfl
@[simp] theorem failEncode_n (c : Cfg) (s : State) (r : Raise) : (failEncode c s r).n = s.n := rfl
@[simp] theorem failEncode_consumed (c : Cfg) (s : State) (r : Raise) : (failEncode c s r).consumed = s.consumed := rfl
@[simp] theorem failEncode_sum (c : Cfg) (s : State) (r : Raise) : (failEncode c s r).sum = s.sum := rfl
@[simp] theorem failEncode_modeSample (c : Cfg) (s : State) (r : Raise) : (failEncode c s r).modeSample = s.modeSample := rfl
@[simp] theorem failEncode_pend (c : Cfg) (s : State) (r : Raise) : (failEncode c s r).pend = s.pend := rfl
@[simp] theorem failEncode_errKind (c : Cfg) (s : State) (r : Raise) : (failEncode c s r).errKind = r.kind := rfl
@[simp] theorem failEncode_errOff (c : Cfg) (s : State) (r : Raise) : (failEncode c s r).errOff = r.off := rfl
@[simp] theorem failEncode_warn (c : Cfg) (s : State) (r : Raise) : (failEncode c s r).warn = s.warn := rfl
@[simp] theorem failEncode_outMem (c : Cfg) (s : State) (r : Raise) : (failEncode c s r).outMem = memWriteBytes [] 0 ((Config.freeOut s.draws).take c.lenMax) := rfl
@[simp] theorem failEncode_outLen (c : Cfg) (s : State) (r : Raise) : (failEncode c s r).outLen = ((Config.freeOut s.draws).take c.lenMax).length := rfl
@[simp] theorem failEncode_result (c : Cfg) (s : State) (r : Raise) : (failEncode c s r).result = s.result := rfl
@[simp] theorem failEncode_report (c : Cfg) (s : State) (r : Raise) : (failEncode c s r).report = s.report := rfl
@[simp] theorem failEncode_lastSeq (c : Cfg) (s : State) (r : Raise) : (failEncode c s r).lastSeq = s.lastSeq := rfl
@[simp] theorem failEncode_ret (c : Cfg) (s : State) (r : Raise) : (failEncode c s r).ret = s.ret := rfl
@[simp] theorem failEncode_draws (c : Cfg) (s : State) (r : Raise) : (failEncode c s r).draws = s.draws + 1 := rfl

@[simp] theorem finishEncode_cmd (s : State) (b : List Byte) : (finishEncode s b).cmd = s.cmd := rfl
@[simp] theorem finishEncode_operand (s : State) (b : List Byte) : (finishEncode s b).operand = s.operand := rfl
@[simp] theorem finishEncode_mode (s : State) (b : List Byte) : (finishEncode s b).mode = s.mode := rfl
@[simp] theorem finishEncode_inMem (s : State) (b : List Byte) : (finishEncode s b).inMem = s.inMem := rfl
@[simp] theorem finishEncode_inLen (s : State) (b : List Byte) : (finishEncode s b).inLen = s.inLen := rfl
@[simp] theorem finishEncode_f (s : State) (b : List Byte) : (finishEncode s b).f = s.f := rfl
@[simp] theorem finishEncode_fWritten (s : State) (b : List Byte) : (finishEncode s b).fWritten = s.fWritten := rfl
@[simp] theorem finishEncode_st (s : State) (b : List Byte) : (finishEncode s b).st = .done := rfl
@[simp] theorem finishEncode_cur (s : State) (b : List Byte) : (finishEncode s b).cur = b.length := rfl
@[simp] theorem finishEncode_n (s : State) (b : List Byte) : (finishEncode s b).n = s.n := rfl
@[simp] theorem finishEncode_consumed (s : State) (b : List Byte) : (finishEncode s b).consumed = s.consumed := rfl
@[simp] theorem finishEncode_sum (s : State) (b : List Byte) : (finishEncode s b).sum = s.sum := rfl
@[simp] theorem finishEncode_modeSample (s : State) (b : List Byte) : (finishEncode s b).modeSample = s.modeSample := rfl
@[simp] theorem finishEncode_pend (s : State) (b : List Byte) : (finishEncode s b).pend = s.pend := rfl
@[simp] theorem finishEncode_errKind (s : State) (b : List Byte) : (finishEncode s b).errKind = s.errKind := rfl
@[simp] theorem finishEncode_errOff (s : State) (b : List Byte) : (finishEncode s b).errOff = s.errOff := rfl
@[simp] theorem finishEncode_warn (s : State) (b : List Byte) : (finishEncode s b).warn = s.warn := rfl
@[simp] theorem finishEncode_outMem (s : State) (b : List Byte) : (finishEncode s b).outMem = memWriteBytes s.outMem 0 b := rfl
@[simp] theorem finishEncode_outLen (s : State) (b : List Byte) : (finishEncode s b).outLen = b.length := rfl
@[simp] theorem finishEncode_result (s : State) (b : List Byte) : (finishEncode s b).result = s.result := rfl
@[simp] theorem finishEncode_report (s : State) (b : List Byte) : (finishEncode s b).report = s.report := rfl
@[simp] theorem finishEncode_lastSeq (s : State) (b : List Byte) : (finishEncode s b).lastSeq = s.lastSeq := rfl
@[simp] theorem finishEncode_ret (s : State) (b : List Byte) : (finishEncode s b).ret = s.ret := rfl
@[simp] theorem finishEncode_draws (s : State) (b : List Byte) : (finishEncode s b).draws = s.draws := rfl

@[simp] theorem emit_cmd (s : State) (b : List Byte) : (emit s b).cmd = s.cmd := rfl
@[simp] theorem emit_operand (s : State) (b : List Byte) : (emit s b).operand = s.operand := rfl
@[simp] theorem emit_mode (s : State) (b : List Byte) : (emit s b).mode = s.mode := rfl
@[simp] theorem emit_inMem (s : State) (b : List Byte) : (emit s b).inMem = s.inMem := rfl
@[simp] theorem emit_inLen (s : State) (b : List Byte) : (emit s b).inLen = s.inLen := rfl
@[simp] theorem emit_f (s : State) (b : List Byte) : (emit s b).f = s.f := rfl
@[simp] theorem emit_fWritten (s : State) (b : List Byte) : (emit s b).fWritten = s.fWritten := rfl
@[simp] theorem emit_st (s : State) (b : List Byte) : (emit s b).st = s.st := rfl
@[simp] theorem emit_cur (s : State) (b : List Byte) : (emit s b).cur = s.cur + b.length := rfl
@[simp] theorem emit_n (s : State) (b : List Byte) : (emit s b).n = s.n := rfl
@[simp] theorem emit_consumed (s : State) (b : List Byte) : (emit s b).consumed = s.consumed := rfl
@[simp] theorem emit_sum (s : State) (b : List Byte) : (emit s b).sum = s.sum := rfl
@[simp] theorem emit_modeSample (s : State) (b : List Byte) : (emit s b).modeSample = s.modeSample := rfl
@[simp] theorem emit_pend (s : State) (b : List Byte) : (emit s b).pend = s.pend := rfl
@[simp] theorem emit_errKind (s : State) (b : List Byte) : (emit s b).errKind = s.errKind := rfl
@[simp] theorem emit_errOff (s : State) (b : List Byte) : (emit s b).errOff = s.errOff := rfl
@[simp] theorem emit_warn (s : State) (b : List Byte) : (emit s b).warn = s.warn := rfl
@[simp] theorem emit_outMem (s : State) (b : List Byte) : (emit s b).outMem = memWriteBytes s.outMem s.outLen b := rfl
@[simp] theorem emit_outLen (s : State) (b : List Byte) : (emit s b).outLen = s.outLen + b.length := rfl
@[simp] theorem emit_result (s : State) (b : List Byte) : (emit s b).result = s.result := rfl
@[simp] theorem emit_report (s : State) (b : List Byte) : (emit s b).report = s.report := rfl
@[simp] theorem emit_lastSeq (s : State) (b : List Byte) : (emit s b).lastSeq = s.lastSeq := rfl
@[simp] theorem emit_ret (s : State) (b : List Byte) : (emit s b).ret = s.ret := rfl
@[simp] theorem emit_draws (s : State) (b : List Byte) : (emit s b).draws = s.draws := rfl

@[simp] theorem finishChecksum_cmd (s : State) (x : Byte) : (finishChecksum s x).cmd = s.cmd := rfl
@[simp] theorem finishChecksum_operand (s : State) (x : Byte) : (finishChecksum s x).operand = s.operand := rfl
@[simp] theorem finishChecksum_mode (s : State) (x : Byte) : (finishChecksum s x).mode = s.mode := rfl
@[simp] theorem finishChecksum_inMem (s : State) (x : Byte) : (finishChecksum s x).inMem = s.inMem := rfl
@[simp] theorem finishChecksum_inLen (s : State) (x : Byte) : (finishChecksum s x).inLen = s.inLen := rfl
@[simp] theorem finishChecksum_f (s : State) (x : Byte) : (finishChecksum s x).f = s.f := rfl
@[simp] theorem finishChecksum_fWritten (s : State) (x : Byte) : (finishChecksum s x).fWritten = s.fWritten := rfl
@[simp] theorem finishChecksum_st (s : State) (x : Byte) : (finishChecksum s x).st = s.st := rfl
@[simp] theorem finishChecksum_cur (s : State) (x : Byte) : (finishChecksum s x).cur = s.cur := rfl
@[simp] theorem finishChecksum_n (s : State) (x : Byte) : (finishChecksum s x).n = s.n := rfl
@[simp] theorem finishChecksum_consumed (s : State) (x : Byte) : (finishChecksum s x).consumed = s.consumed := rfl
@[simp] theorem finishChecksum_sum (s : State) (x : Byte) : (finishChecksum s x).sum = s.sum := rfl
@[simp] theorem finishChecksum_modeSample (s : State) (x : Byte) : (finishChecksum s x).modeSample = s.modeSample := rfl
@[simp] theorem finishChecksum_pend (s : State) (x : Byte) : (finishChecksum s x).pend = s.pend := rfl
@[simp] theorem finishChecksum_errKind (s : State) (x : Byte) : (finishChecksum s x).errKind = .none := rfl
@[simp] theorem finishChecksum_errOff (s : State) (x : Byte) : (finishChecksum s x).errOff = 0 := rfl
@[simp] theorem finishChecksum_warn (s : State) (x : Byte) : (finishChecksum s x).warn = s.warn := rfl
@[simp] theorem finishChecksum_outMem (s : State) (x : Byte) : (finishChecksum s x).outMem = s.outMem := rfl
@[simp] theorem finishChecksum_outLen (s : State) (x : Byte) : (finishChecksum s x).outLen = s.outLen := rfl
@[simp] theorem finishChecksum_result (s : State) (x : Byte) : (finishChecksum s x).result = x := rfl
@[simp] theorem finishChecksum_report (s : State) (x : Byte) : (finishChecksum s x).report = s.report := rfl
@[simp] theorem finishChecksum_lastSeq (s : State) (x : Byte) : (finishChecksum s x).lastSeq = s.lastSeq := rfl
@[simp] theorem finishChecksum_ret (s : State) (x : Byte) : (finishChecksum s x).ret = s.ret := rfl
@[simp] theorem finishChecksum_draws (s : State) (x : Byte) : (finishChecksum s x).draws = s.draws := rfl

@[simp] theorem observe_cmd (s : State) : (observe s).cmd = s.cmd := rfl
@[simp] theorem observe_operand (s : State) : (observe s).operand = s.operand := rfl
@[simp] theorem observe_mode (s : State) : (observe s).mode = s.mode := rfl
@[simp] theorem observe_inMem (s : State) : (observe s).inMem = s.inMem := rfl
@[simp] theorem observe_inLen (s : State) : (observe s).inLen = s.inLen := rfl
@[simp] theorem observe_f (s : State) : (observe s).f = s.f := rfl
@[simp] theorem observe_fWritten (s : State) : (observe s).fWritten = s.fWritten := rfl
@[simp] theorem observe_st (s : State) : (observe s).st = s.st := rfl
@[simp] theorem observe_cur (s : State) : (observe s).cur = s.cur := rfl
@[simp] theorem observe_n (s : State) : (observe s).n = s.n := rfl
@[simp] theorem observe_consumed (s : State) : (observe s).consumed = s.consumed := rfl
@[simp] theorem observe_sum (s : State) : (observe s).sum = s.sum := rfl
@[simp] theorem observe_modeSample (s : State) : (observe s).modeSample = s.modeSample := rfl
@[simp] theorem observe_pend (s : State) : (observe s).pend = s.pend := rfl
@[simp] theorem observe_errKind (s : State) : (observe s).errKind = s.errKind := rfl
@[simp] theorem observe_errOff (s : State) : (observe s).errOff = s.errOff := rfl
@[simp] theorem observe_warn (s : State) : (observe s).warn = s.warn := rfl
@[simp] theorem observe_outMem (s : State) : (observe s).outMem = s.outMem := rfl
@[simp] theorem observe_outLen (s : State) : (observe s).outLen = s.outLen := rfl
@[simp] theorem observe_result (s : State) : (observe s).result = s.result := rfl
@[simp] theorem observe_report (s : State) : (observe s).report = seqReport s.lastSeq s.operand := rfl
@[simp] theorem observe_lastSeq (s : State) : (observe s).lastSeq = some s.operand := rfl
@[simp] theorem observe_ret (s : State) : (observe s).ret = s.ret := rfl
@[simp] theorem observe_draws (s : State) : (observe s).draws = s.draws := rfl

@[simp] theorem markDone_cmd (s : State) : (markDone s).cmd = s.cmd := rfl
@[simp] theorem markDone_operand (s : State) : (markDone s).operand = s.operand := rfl
@[simp] theorem markDone_mode (s : State) : (markDone s).mode = s.mode := rfl
@[simp] theorem markDone_inMem (s : State) : (markDone s).inMem = s.inMem := rfl
@[simp] theorem markDone_inLen (s : State) : (markDone s).inLen = s.inLen := rfl
@[simp] theorem markDone_f (s : State) : (markDone s).f = s.f := rfl
@[simp] theorem markDone_fWritten (s : State) : (markDone s).fWritten = s.fWritten := rfl
@[simp] theorem markDone_st (s : State) : (markDone s).st = .done := rfl
@[simp] theorem markDone_cur (s : State) : (markDone s).cur = s.cur := rfl
@[simp] theorem markDone_n (s : State) : (markDone s).n = s.n := rfl
@[simp] theorem markDone_consumed (s : State) : (markDone s).consumed = s.consumed := rfl
@[simp] theorem markDone_sum (s : State) : (markDone s).sum = s.sum := rfl
@[simp] theorem markDone_modeSample (s : State) : (markDone s).modeSample = s.modeSample := rfl
@[simp] theorem markDone_pend (s : State) : (markDone s).pend = s.pend := rfl
@[simp] theorem markDone_errKind (s : State) : (markDone s).errKind = s.errKind := rfl
@[simp] theorem markDone_errOff (s : State) : (markDone s).errOff = s.errOff := rfl
@[simp] theorem markDone_warn (s : State) : (markDone s).warn = s.warn := rfl
@[simp] theorem markDone_outMem (s : State) : (markDone s).outMem = s.outMem := rfl
@[simp] theorem markDone_outLen (s : State) : (markDone s).outLen = s.outLen := rfl
@[simp] theorem markDone_result (s : State) : (markDone s).result = s.result := rfl
@[simp] theorem markDone_report (s : State) : (markDone s).report = s.report := rfl
@[simp] theorem markDone_lastSeq (s : State) : (markDone s).lastSeq = s.lastSeq := rfl
@[simp] theorem markDone_ret (s : State) : (markDone s).ret = s.ret := rfl
@[simp] theorem markDone_draws (s : State) : (markDone s).draws = s.draws := rfl

@[simp] theorem forgetLast_cmd (s : State) : (forgetLast s).cmd = s.cmd := rfl
@[simp] theorem forgetLast_operand (s : State) : (forgetLast s).operand = s.operand := rfl
@[simp] theorem forgetLast_mode (s : State) : (forgetLast s).mode = s.mode := rfl
@[simp] theorem forgetLast_inMem (s : State) : (forgetLast s).inMem = s.inMem := rfl
@[simp] theorem forgetLast_inLen (s : State) : (forgetLast s).inLen = s.inLen := rfl
@[simp] theorem forgetLast_f (s : State) : (forgetLast s).f = s.f := rfl
@[simp] theorem forgetLast_fWritten (s : State) : (forgetLast s).fWritten = s.fWritten := rfl
@[simp] theorem forgetLast_st (s : State) : (forgetLast s).st = s.st := rfl
@[simp] theorem forgetLast_cur (s : State) : (forgetLast s).cur = s.cur := rfl
@[simp] theorem forgetLast_n (s : State) : (forgetLast s).n = s.n := rfl
@[simp] theorem forgetLast_consumed (s : State) : (forgetLast s).consumed = s.consumed := rfl
@[simp] theorem forgetLast_sum (s : State) : (forgetLast s).sum = s.sum := rfl
@[simp] theorem forgetLast_modeSample (s : State) : (forgetLast s).modeSample = s.modeSample := rfl
@[simp] theorem forgetLast_pend (s : State) : (forgetLast s).pend = s.pend := rfl
@[simp] theorem forgetLast_errKind (s : State) : (forgetLast s).errKind = s.errKind := rfl
@[simp] theorem forgetLast_errOff (s : State) : (forgetLast s).errOff = s.errOff := rfl
@[simp] theorem forgetLast_warn (s : State) : (forgetLast s).warn = s.warn := rfl
@[simp] theorem forgetLast_outMem (s : State) : (forgetLast s).outMem = s.outMem := rfl
@[simp] theorem forgetLast_outLen (s : State) : (forgetLast s).outLen = s.outLen := rfl
@[simp] theorem forgetLast_result (s : State) : (forgetLast s).result = s.result := rfl
@[simp] theorem forgetLast_report (s : State) : (forgetLast s).report = s.report := rfl
@[simp] theorem forgetLast_lastSeq (s : State) : (forgetLast s).lastSeq = none := rfl
@[simp] theorem forgetLast_ret (s : State) : (forgetLast s).ret = s.ret := rfl
@[simp] theorem forgetLast_draws (s : State) : (forgetLast s).draws = s.draws := rfl

@[simp] theorem handBack_cmd (s : State) (w : List Nat) (r : Ret) : (handBack s w r).cmd = s.cmd := rfl
@[simp] theorem handBack_operand (s : State) (w : List Nat) (r : Ret) : (handBack s w r).operand = s.operand := rfl
@[simp] theorem handBack_mode (s : State) (w : List Nat) (r : Ret) : (handBack s w r).mode = s.mode := rfl
@[simp] theorem handBack_inMem (s : State) (w : List Nat) (r : Ret) : (handBack s w r).inMem = s.inMem := rfl
@[simp] theorem handBack_inLen (s : State) (w : List Nat) (r : Ret) : (handBack s w r).inLen = s.inLen := rfl
@[simp] theorem handBack_f (s : State) (w : List Nat) (r : Ret) : (handBack s w r).f = s.f := rfl
@[simp] theorem handBack_fWritten (s : State) (w : List Nat) (r : Ret) : (handBack s w r).fWritten = s.fWritten := rfl
@[simp] theorem handBack_st (s : State) (w : List Nat) (r : Ret) : (handBack s w r).st = s.st := rfl
@[simp] theorem handBack_cur (s : State) (w : List Nat) (r : Ret) : (handBack s w r).cur = s.cur := rfl
@[simp] theorem handBack_n (s : State) (w : List Nat) (r : Ret) : (handBack s w r).n = s.n := rfl
@[simp] theorem handBack_consumed (s : State) (w : List Nat) (r : Ret) : (handBack s w r).consumed = s.consumed := rfl
@[simp] theorem handBack_sum (s : State) (w : List Nat) (r : Ret) : (handBack s w r).sum = s.sum := rfl
@[simp] theorem handBack_modeSample (s : State) (w : List Nat) (r : Ret) : (handBack s w r).modeSample = s.modeSample := rfl
@[simp] theorem handBack_pend (s : State) (w : List Nat) (r : Ret) : (handBack s w r).pend = s.pend := rfl
@[simp] theorem handBack_errKind (s : State) (w : List Nat) (r : Ret) : (handBack s w r).errKind = s.errKind := rfl
@[simp] theorem handBack_errOff (s : State) (w : List Nat) (r : Ret) : (handBack s w r).errOff = s.errOff := rfl
@[simp] theorem handBack_warn (s : State) (w : List Nat) (r : Ret) : (handBack s w r).warn = w := rfl
@[simp] theorem handBack_outMem (s : State) (w : List Nat) (r : Ret) : (handBack s w r).outMem = s.outMem := rfl
@[simp] theorem handBack_outLen (s : State) (w : List Nat) (r : Ret) : (handBack s w r).outLen = s.outLen := rfl
@[simp] theorem handBack_result (s : State) (w : List Nat) (r : Ret) : (handBack s w r).result = s.result := rfl
@[simp] theorem handBack_report (s : State) (w : List Nat) (r : Ret) : (handBack s w r).report = s.report := rfl
@[simp] theorem handBack_lastSeq (s : State) (w : List Nat) (r : Ret) : (handBack s w r).lastSeq = s.lastSeq := rfl
@[simp] theorem handBack_ret (s : State) (w : List Nat) (r : Ret) : (handBack s w r).ret = r := rfl
@[simp] theorem handBack_draws (s : State) (w : List Nat) (r : Ret) : (handBack s w r).draws = s.draws := rfl

@[simp] theorem advance_cmd (s : State) (k : Nat) (st : FrameState) : (advance s k st).cmd = s.cmd := rfl
@[simp] theorem advance_operand (s : State) (k : Nat) (st : FrameState) : (advance s k st).operand = s.operand := rfl
@[simp] theorem advance_mode (s : State) (k : Nat) (st : FrameState) : (advance s k st).mode = s.mode := rfl
@[simp] theorem advance_inMem (s : State) (k : Nat) (st : FrameState) : (advance s k st).inMem = s.inMem := rfl
@[simp] theorem advance_inLen (s : State) (k : Nat) (st : FrameState) : (advance s k st).inLen = s.inLen := rfl
@[simp] theorem advance_f (s : State) (k : Nat) (st : FrameState) : (advance s k st).f = s.f := rfl
@[simp] theorem advance_fWritten (s : State) (k : Nat) (st : FrameState) : (advance s k st).fWritten = s.fWritten := rfl
@[simp] theorem advance_st (s : State) (k : Nat) (st : FrameState) : (advance s k st).st = nextFrame s.pend.hdr.flags st := rfl
@[simp] theorem advance_cur (s : State) (k : Nat) (st : FrameState) : (advance s k st).cur = k := rfl
@[simp] theorem advance_n (s : State) (k : Nat) (st : FrameState) : (advance s k st).n = s.n := rfl
@[simp] theorem advance_consumed (s : State) (k : Nat) (st : FrameState) : (advance s k st).consumed = s.consumed := rfl
@[simp] theorem advance_sum (s : State) (k : Nat) (st : FrameState) : (advance s k st).sum = s.sum := rfl
@[simp] theorem advance_modeSample (s : State) (k : Nat) (st : FrameState) : (advance s k st).modeSample = s.modeSample := rfl
@[simp] theorem advance_pend (s : State) (k : Nat) (st : FrameState) : (advance s k st).pend = s.pend := rfl
@[simp] theorem advance_errKind (s : State) (k : Nat) (st : FrameState) : (advance s k st).errKind = s.errKind := rfl
@[simp] theorem advance_errOff (s : State) (k : Nat) (st : FrameState) : (advance s k st).errOff = s.errOff := rfl
@[simp] theorem advance_warn (s : State) (k : Nat) (st : FrameState) : (advance s k st).warn = s.warn := rfl
@[simp] theorem advance_outMem (s : State) (k : Nat) (st : FrameState) : (advance s k st).outMem = s.outMem := rfl
@[simp] theorem advance_outLen (s : State) (k : Nat) (st : FrameState) : (advance s k st).outLen = s.outLen := rfl
@[simp] theorem advance_result (s : State) (k : Nat) (st : FrameState) : (advance s k st).result = s.result := rfl
@[simp] theorem advance_report (s : State) (k : Nat) (st : FrameState) : (advance s k st).report = s.report := rfl
@[simp] theorem advance_lastSeq (s : State) (k : Nat) (st : FrameState) : (advance s k st).lastSeq = s.lastSeq := rfl
@[simp] theorem advance_ret (s : State) (k : Nat) (st : FrameState) : (advance s k st).ret = s.ret := rfl
@[simp] theorem advance_draws (s : State) (k : Nat) (st : FrameState) : (advance s k st).draws = s.draws := rfl

end Sys2Proof.Machine
end

