-- ==== Sys2Proof/Laws/Ops.lean ====
section
/-! SUPPORT. Laws/Ops.lean: for each shared operation, once, everything it can answer. -/

namespace Sys2Proof.Machine

/-! The port. -/

theorem whenReady_ready {s : State} {o : Out} (h : busy s = false) : whenReady s o = o := by
  simp [whenReady, h]

theorem whenReady_busy {s : State} {o : Out} (h : busy s = true) : whenReady s o = .next s := by
  simp [whenReady, h]

theorem effMode_busy {s : State} (h : busy s = true) : effMode s = s.modeSample := by
  simp [effMode, h]

theorem effMode_idle {s : State} (h : busy s = false) : effMode s = s.mode := by
  simp [effMode, h]

/-- The next instruction comes from the port exactly while no operation runs. -/
theorem slotOf_port_iff (s : State) : slotOf s = .port ↔ busy s = false := by
  unfold slotOf busy
  cases s.st <;> simp <;> split <;> simp

/-! The framer. -/

theorem whenDue_due {s : State} {slot : Slot} {o : Out} (h : slotOf s = slot) : whenDue s slot o = o := by
  simp [whenDue, h]

theorem whenDue_not {s : State} {slot : Slot} {o : Out} (h : slotOf s ≠ slot) :
    whenDue s slot o = .refused .elementNotDue := by
  simp [whenDue, h]

/-- A framer's step answers a next state: the failure of its checks, or what it does when they pass. -/
theorem frameStep_cases (c : Cfg) (s : State) (cs : List Check) (k : State → State) :
    (∃ r, runChecks s.modeSample s.warn cs = .error r ∧ frameStep c s cs k = .next (raiseDecode c s r)) ∨
      ∃ w, runChecks s.modeSample s.warn cs = .ok w ∧ frameStep c s cs k = .next (k { s with warn := w }) := by
  unfold frameStep
  split
  · exact .inl ⟨_, ‹_›, rfl⟩
  · exact .inr ⟨_, ‹_›, rfl⟩

/-! The internal operations. -/

theorem withinContract_true (o : Out) : withinContract true o = o := rfl

theorem withinContract_false (o : Out) : withinContract false o = .refused .outsideContract := rfl

/-- An internal operation's checks answer a next state. -/
theorem checkStep_cases (c : Cfg) (s : State) (cs : List Check) (k : List Nat → State) :
    (∃ r, runChecks (effMode s) s.warn cs = .error r ∧ checkStep c s cs k = .next (raiseDecode c s r)) ∨
      ∃ w, runChecks (effMode s) s.warn cs = .ok w ∧ checkStep c s cs k = .next (k w) := by
  unfold checkStep
  split
  · exact .inl ⟨_, ‹_›, rfl⟩
  · exact .inr ⟨_, ‹_›, rfl⟩

/-- A section decode answers a next state: its failure, or its result handed back. -/
theorem decStep_cases {α : Type} (c : Cfg) (s : State) (x : Except Raise (α × List Nat)) (ret : α → Ret) :
    (∃ r, x = .error r ∧ decStep c s x ret = .next (raiseDecode c s r)) ∨
      ∃ a w, x = .ok (a, w) ∧ decStep c s x ret = .next (handBack s w (ret a)) := by
  cases x with
  | error r => exact .inl ⟨r, rfl, rfl⟩
  | ok p => exact .inr ⟨p.1, p.2, rfl, rfl⟩

/-! The end of an ENCODE. -/

/-- An ENCODE ends in `Failed` with the kind, or in `Done` with the packet. -/
theorem endEncode_cases (c : Cfg) (s : State) (x : Except Raise (List Byte)) :
    (∃ r, x = .error r ∧ endEncode c s x = failEncode c s r) ∨
      ∃ b, x = .ok b ∧ endEncode c s x = finishEncode s b := by
  cases x with
  | error r => exact .inl ⟨r, rfl, rfl⟩
  | ok b => exact .inr ⟨b, rfl, rfl⟩

/-! The bank. -/

@[simp] theorem fileOf_length {α : Type} (fresh : Nat → α) (k : Nat) (l : List α) : (fileOf fresh k l).length = k := by
  simp [fileOf]

/-- Register `j` of a file: what the list has, else a free value; none at and past the count. -/
theorem getElem?_fileOf {α : Type} (fresh : Nat → α) (k : Nat) (l : List α) (j : Nat) :
    (fileOf fresh k l)[j]? = if j < k then some (l.getD j (fresh j)) else none := by
  unfold fileOf
  rw [List.getElem?_map]
  by_cases h : j < k <;> simp [h]

/-- A list is the file its own length makes of it. -/
@[simp] theorem fileOf_self {α : Type} (fresh : Nat → α) (l : List α) : fileOf fresh l.length l = l := by
  refine List.ext_getElem (by simp) fun i h1 h2 => ?_
  simp [fileOf, List.getD_eq_getElem?_getD, h2]

@[simp] theorem putEntry_length {α : Type} (fresh : Nat → α) (l : List α) (i : Nat) (v : α) :
    (putEntry fresh l i v).length = max l.length (i + 1) := by
  simp [putEntry]

/-- A register written holds the value; the others hold what they held, and those before it that the list lacked a
free value. -/
theorem getElem?_putEntry {α : Type} (fresh : Nat → α) (l : List α) (i : Nat) (v : α) (j : Nat) :
    (putEntry fresh l i v)[j]? =
      if j = i then some v else if j < i then some (l.getD j (fresh j)) else l[j]? := by
  unfold putEntry
  rw [List.getElem?_set, getElem?_fileOf, fileOf_length]
  by_cases hji : j = i
  · subst j
    simp
  · rw [if_neg (Ne.symm hji), if_neg hji]
    by_cases hlt : j < i
    · rw [if_pos (by omega), if_pos hlt]
    · rw [if_neg hlt]
      by_cases hl : j < l.length
      · simp [hl]
      · rw [if_neg (by omega), List.getElem?_eq_none (by omega)]

@[simp] theorem wholeEntry_attr_length (c : Cfg) (d j : Nat) (e : SvcEntry) :
    (wholeEntry c d j e).attr.length = c.svcEntryBytes - 1 := by
  simp [wholeEntry]

/-- An entry of the configuration's width stands as it is. -/
theorem wholeEntry_of_wf {c : Cfg} {e : SvcEntry} (h : wfSvcEntry c e = true) (d j : Nat) : wholeEntry c d j e = e := by
  have hw : c.svcEntryBytes - 1 = e.attr.length := by
    simp only [wfSvcEntry, beq_iff_eq] at h
    omega
  simp [wholeEntry, hw]

theorem wfSvcEntry_wholeEntry {c : Cfg} (h : 1 ≤ c.svcEntryBytes) (d j : Nat) (e : SvcEntry) :
    wfSvcEntry c (wholeEntry c d j e) = true := by
  simp only [wfSvcEntry, wholeEntry_attr_length, beq_iff_eq]
  omega

@[simp] theorem wholeEntries_length (c : Cfg) (l : List SvcEntry) : (wholeEntries c l).length = l.length := by
  simp [wholeEntries]

/-- Entries of the configuration's width stand as they are. -/
theorem wholeEntries_of_wf {c : Cfg} {l : List SvcEntry} (h : l.all (wfSvcEntry c) = true) : wholeEntries c l = l := by
  rw [List.all_eq_true] at h
  refine List.ext_getElem (by simp) fun i h1 h2 => ?_
  simp [wholeEntries, wholeEntry_of_wf (h _ (List.getElem_mem h2))]

/-- Every entry read of the bank has the configuration's width. -/
theorem svcEntries_wf {c : Cfg} (h : 1 ≤ c.svcEntryBytes) (b : Bank) : (svcEntries c b).all (wfSvcEntry c) = true := by
  rw [List.all_eq_true]
  intro e he
  obtain ⟨i, hi, rfl⟩ := List.mem_iff_getElem.1 he
  simp [svcEntries, wholeEntries, wfSvcEntry_wholeEntry h]

/-- The counts of an unwritten bank keep their 5 bits, and the entries below them are there. -/
theorem unspecifiedBank_counts (c : Cfg) (d : Nat) :
    (unspecifiedBank c d).ccCount ≤ countMost ∧ (unspecifiedBank c d).svcCount ≤ countMost ∧
      (unspecifiedBank c d).cc.length = (unspecifiedBank c d).ccCount ∧
      (unspecifiedBank c d).svc.length = (unspecifiedBank c d).svcCount := by
  refine ⟨Nat.le_of_lt_succ (Nat.mod_lt _ (by decide)), Nat.le_of_lt_succ (Nat.mod_lt _ (by decide)), ?_, ?_⟩ <;>
    simp [unspecifiedBank]

@[simp] theorem ccEntries_length (b : Bank) : (ccEntries b).length = b.ccCount :=
  fileOf_length _ _ _

@[simp] theorem svcEntries_length (c : Cfg) (b : Bank) : (svcEntries c b).length = b.svcCount := by
  simp [svcEntries]

/-- The record loaded is the record held, its entries with the configuration's registers. -/
theorem bankPkt_loadBank (c : Cfg) (b : Bank) (p : Pkt) :
    bankPkt c (loadBank b p) = { p with svc := p.svc.map (wholeEntries c) } := by
  obtain ⟨h, tc, cc, svc, fs, ck⟩ := p
  cases tc <;> cases cc <;> cases svc <;> simp [bankPkt, loadBank, tagOf, ccEntries, svcEntries]

/-- A record whose entries have the configuration's width is held as it was loaded. -/
theorem bankPkt_loadBank_of_wf {c : Cfg} {p : Pkt} (b : Bank)
    (h : ∀ l, p.svc = some l → l.all (wfSvcEntry c) = true) : bankPkt c (loadBank b p) = p := by
  rw [bankPkt_loadBank]
  obtain ⟨hd, tc, cc, svc, fs, ck⟩ := p
  cases svc with
  | none => rfl
  | some l => simp [wholeEntries_of_wf (h l rfl)]

/-- The registers written after one more is written. -/
theorem mem_insertReg {q r : FReg} : ∀ {w : List FReg}, q ∈ insertReg r w ↔ q = r ∨ q ∈ w
  | [] => by simp [insertReg]
  | x :: w => by
    unfold insertReg
    split
    · subst r
      simp
    · split
      · simp
      · simp [mem_insertReg (w := w), or_left_comm]

/-- The registers written after more are written. -/
theorem mem_markWritten {q : FReg} : ∀ {rs w : List FReg}, q ∈ markWritten w rs ↔ q ∈ w ∨ q ∈ rs
  | [], w => by simp [markWritten]
  | r :: rs, w => by
    have h := mem_markWritten (q := q) (rs := rs) (w := insertReg r w)
    simp only [markWritten, List.foldl_cons] at h ⊢
    rw [h, mem_insertReg, List.mem_cons]
    constructor
    · rintro ((h | h) | h) <;> simp [h]
    · rintro (h | h | h) <;> simp [h]

@[simp] theorem tagOf_some {α : Type} (a : α) : tagOf (some a) = 1 := rfl

@[simp] theorem tagOf_none {α : Type} : tagOf (none : Option α) = 0 := rfl

/-! The end of a section in a counted loop. -/

theorem takeTriplets_last {s : State} {k : Nat} {cnt : BitVec 5} {l : List Triplet} (h : cnt.toNat ≤ l.length) :
    takeTriplets s k cnt l = advance { s with pend := { s.pend with cc := some (cnt, l) } } k .ccData := by
  simp [takeTriplets, advance, h]

theorem takeTriplets_more {s : State} {k : Nat} {cnt : BitVec 5} {l : List Triplet} (h : l.length < cnt.toNat) :
    takeTriplets s k cnt l = { s with pend := { s.pend with cc := some (cnt, l) }, cur := k } := by
  simp [takeTriplets, Nat.not_le.2 h]

theorem takeEntries_last {s : State} {k : Nat} {cnt : BitVec 5} {l : List SvcEntry} (h : cnt.toNat ≤ l.length) :
    takeEntries s k cnt l = advance { s with pend := { s.pend with svc := some (cnt, l) } } k .serviceInfo := by
  simp [takeEntries, advance, h]

theorem takeEntries_more {s : State} {k : Nat} {cnt : BitVec 5} {l : List SvcEntry} (h : l.length < cnt.toNat) :
    takeEntries s k cnt l = { s with pend := { s.pend with svc := some (cnt, l) }, cur := k } := by
  simp [takeEntries, Nat.not_le.2 h]

end Sys2Proof.Machine
end

