-- ==== Sys2Proof/Laws/HostPort.lean ====
section
/-! SUPPORT. Laws/HostPort.lean: what the host's writes leave in each field, and which registers they record. -/

namespace Sys2Proof.Machine

@[simp] theorem drawn_cmd (s : State) : (drawn s).cmd = s.cmd := rfl
@[simp] theorem drawn_operand (s : State) : (drawn s).operand = s.operand := rfl
@[simp] theorem drawn_mode (s : State) : (drawn s).mode = s.mode := rfl
@[simp] theorem drawn_inMem (s : State) : (drawn s).inMem = s.inMem := rfl
@[simp] theorem drawn_inLen (s : State) : (drawn s).inLen = s.inLen := rfl
@[simp] theorem drawn_f (s : State) : (drawn s).f = s.f := rfl
@[simp] theorem drawn_fWritten (s : State) : (drawn s).fWritten = s.fWritten := rfl
@[simp] theorem drawn_st (s : State) : (drawn s).st = s.st := rfl
@[simp] theorem drawn_cur (s : State) : (drawn s).cur = s.cur := rfl
@[simp] theorem drawn_n (s : State) : (drawn s).n = s.n := rfl
@[simp] theorem drawn_consumed (s : State) : (drawn s).consumed = s.consumed := rfl
@[simp] theorem drawn_sum (s : State) : (drawn s).sum = s.sum := rfl
@[simp] theorem drawn_modeSample (s : State) : (drawn s).modeSample = s.modeSample := rfl
@[simp] theorem drawn_pend (s : State) : (drawn s).pend = s.pend := rfl
@[simp] theorem drawn_errKind (s : State) : (drawn s).errKind = s.errKind := rfl
@[simp] theorem drawn_errOff (s : State) : (drawn s).errOff = s.errOff := rfl
@[simp] theorem drawn_warn (s : State) : (drawn s).warn = s.warn := rfl
@[simp] theorem drawn_outMem (s : State) : (drawn s).outMem = s.outMem := rfl
@[simp] theorem drawn_outLen (s : State) : (drawn s).outLen = s.outLen := rfl
@[simp] theorem drawn_result (s : State) : (drawn s).result = s.result := rfl
@[simp] theorem drawn_report (s : State) : (drawn s).report = s.report := rfl
@[simp] theorem drawn_lastSeq (s : State) : (drawn s).lastSeq = s.lastSeq := rfl
@[simp] theorem drawn_ret (s : State) : (drawn s).ret = s.ret := rfl
@[simp] theorem drawn_draws (s : State) : (drawn s).draws = s.draws + 1 := rfl

@[simp] theorem quiet_cmd (s : State) : (quiet s).cmd = 0b000 := rfl
@[simp] theorem quiet_operand (s : State) : (quiet s).operand = s.operand := rfl
@[simp] theorem quiet_mode (s : State) : (quiet s).mode = s.mode := rfl
@[simp] theorem quiet_inMem (s : State) : (quiet s).inMem = s.inMem := rfl
@[simp] theorem quiet_inLen (s : State) : (quiet s).inLen = s.inLen := rfl
@[simp] theorem quiet_f (s : State) : (quiet s).f = s.f := rfl
@[simp] theorem quiet_fWritten (s : State) : (quiet s).fWritten = s.fWritten := rfl
@[simp] theorem quiet_st (s : State) : (quiet s).st = s.st := rfl
@[simp] theorem quiet_cur (s : State) : (quiet s).cur = s.cur := rfl
@[simp] theorem quiet_n (s : State) : (quiet s).n = s.n := rfl
@[simp] theorem quiet_consumed (s : State) : (quiet s).consumed = s.consumed := rfl
@[simp] theorem quiet_sum (s : State) : (quiet s).sum = s.sum := rfl
@[simp] theorem quiet_modeSample (s : State) : (quiet s).modeSample = s.modeSample := rfl
@[simp] theorem quiet_pend (s : State) : (quiet s).pend = s.pend := rfl
@[simp] theorem quiet_errKind (s : State) : (quiet s).errKind = s.errKind := rfl
@[simp] theorem quiet_errOff (s : State) : (quiet s).errOff = s.errOff := rfl
@[simp] theorem quiet_warn (s : State) : (quiet s).warn = s.warn := rfl
@[simp] theorem quiet_outMem (s : State) : (quiet s).outMem = s.outMem := rfl
@[simp] theorem quiet_outLen (s : State) : (quiet s).outLen = s.outLen := rfl
@[simp] theorem quiet_result (s : State) : (quiet s).result = s.result := rfl
@[simp] theorem quiet_report (s : State) : (quiet s).report = s.report := rfl
@[simp] theorem quiet_lastSeq (s : State) : (quiet s).lastSeq = s.lastSeq := rfl
@[simp] theorem quiet_ret (s : State) : (quiet s).ret = s.ret := rfl
@[simp] theorem quiet_draws (s : State) : (quiet s).draws = s.draws := rfl

@[simp] theorem setRegs_cmd (s : State) (rs : List FReg) (b : Bank) : (setRegs s rs b).cmd = s.cmd := rfl
@[simp] theorem setRegs_operand (s : State) (rs : List FReg) (b : Bank) : (setRegs s rs b).operand = s.operand := rfl
@[simp] theorem setRegs_mode (s : State) (rs : List FReg) (b : Bank) : (setRegs s rs b).mode = s.mode := rfl
@[simp] theorem setRegs_inMem (s : State) (rs : List FReg) (b : Bank) : (setRegs s rs b).inMem = s.inMem := rfl
@[simp] theorem setRegs_inLen (s : State) (rs : List FReg) (b : Bank) : (setRegs s rs b).inLen = s.inLen := rfl
@[simp] theorem setRegs_f (s : State) (rs : List FReg) (b : Bank) : (setRegs s rs b).f = b := rfl
@[simp] theorem setRegs_fWritten (s : State) (rs : List FReg) (b : Bank) : (setRegs s rs b).fWritten = markWritten s.fWritten rs := rfl
@[simp] theorem setRegs_st (s : State) (rs : List FReg) (b : Bank) : (setRegs s rs b).st = s.st := rfl
@[simp] theorem setRegs_cur (s : State) (rs : List FReg) (b : Bank) : (setRegs s rs b).cur = s.cur := rfl
@[simp] theorem setRegs_n (s : State) (rs : List FReg) (b : Bank) : (setRegs s rs b).n = s.n := rfl
@[simp] theorem setRegs_consumed (s : State) (rs : List FReg) (b : Bank) : (setRegs s rs b).consumed = s.consumed := rfl
@[simp] theorem setRegs_sum (s : State) (rs : List FReg) (b : Bank) : (setRegs s rs b).sum = s.sum := rfl
@[simp] theorem setRegs_modeSample (s : State) (rs : List FReg) (b : Bank) : (setRegs s rs b).modeSample = s.modeSample := rfl
@[simp] theorem setRegs_pend (s : State) (rs : List FReg) (b : Bank) : (setRegs s rs b).pend = s.pend := rfl
@[simp] theorem setRegs_errKind (s : State) (rs : List FReg) (b : Bank) : (setRegs s rs b).errKind = s.errKind := rfl
@[simp] theorem setRegs_errOff (s : State) (rs : List FReg) (b : Bank) : (setRegs s rs b).errOff = s.errOff := rfl
@[simp] theorem setRegs_warn (s : State) (rs : List FReg) (b : Bank) : (setRegs s rs b).warn = s.warn := rfl
@[simp] theorem setRegs_outMem (s : State) (rs : List FReg) (b : Bank) : (setRegs s rs b).outMem = s.outMem := rfl
@[simp] theorem setRegs_outLen (s : State) (rs : List FReg) (b : Bank) : (setRegs s rs b).outLen = s.outLen := rfl
@[simp] theorem setRegs_result (s : State) (rs : List FReg) (b : Bank) : (setRegs s rs b).result = s.result := rfl
@[simp] theorem setRegs_report (s : State) (rs : List FReg) (b : Bank) : (setRegs s rs b).report = s.report := rfl
@[simp] theorem setRegs_lastSeq (s : State) (rs : List FReg) (b : Bank) : (setRegs s rs b).lastSeq = s.lastSeq := rfl
@[simp] theorem setRegs_ret (s : State) (rs : List FReg) (b : Bank) : (setRegs s rs b).ret = s.ret := rfl
@[simp] theorem setRegs_draws (s : State) (rs : List FReg) (b : Bank) : (setRegs s rs b).draws = s.draws := rfl

/-- The registers that stay written when a count is: all but those of the entries at and past it. -/
theorem mem_forgetFrom {indexOf : FReg → Option Nat} {k : Nat} {w : List FReg} {q : FReg} :
    q ∈ forgetFrom indexOf k w ↔ q ∈ w ∧ ∀ i, indexOf q = some i → i < k := by
  unfold forgetFrom
  rw [List.mem_filter]
  cases indexOf q <;> simp

/-- Registers written are recorded, and those recorded before stay so. -/
theorem mem_setRegs {s : State} {rs : List FReg} {b : Bank} {q : FReg} :
    q ∈ (setRegs s rs b).fWritten ↔ q ∈ s.fWritten ∨ q ∈ rs :=
  mem_markWritten

theorem hostWrite_ready {c : Cfg} {w : HostWrite} {s : State} (h : busy s = false) :
    hostWrite c w s = applyWrite c w s := by
  simp [hostWrite, h]

theorem hostWrite_busy {c : Cfg} {w : HostWrite} {s : State} (h : busy s = true) :
    hostWrite c w s = .refused .hostBusy := by
  simp [hostWrite, h]

/-- A command whose registers are written runs for one step, and then none stands on the port. -/
theorem issue_next {c : Cfg} {code : BitVec 3} {s t : State} (hm : mayIssue c code s = true)
    (h : stepWith c { s with cmd := code } = .next t) : issue c code s = .next (quiet t) := by
  simp [issue, hm, h]

/-- An ENCODE of registers not all written is refused. -/
theorem issue_unwritten {c : Cfg} {code : BitVec 3} {s : State} (hm : mayIssue c code s = false) :
    issue c code s = .refused .unwrittenOperand := by
  simp [issue, hm]

/-- A command accepted leaves a quiet port, after the one step that ran it. -/
theorem issue_eq_next {c : Cfg} {code : BitVec 3} {s t : State} (h : issue c code s = .next t) :
    mayIssue c code s = true ∧ ∃ u, stepWith c { s with cmd := code } = .next u ∧ t = quiet u := by
  unfold issue at h
  split at h
  · split at h <;> cases h
    exact ⟨‹_›, _, ‹_›, rfl⟩
  · cases h

/-- The issue of a command, on a block that is not busy. -/
theorem hostCommandWith_ready {c : Cfg} {code : BitVec 3} {s : State} (h : busy s = false) :
    hostCommandWith c code s = issue c code s :=
  hostWrite_ready h

/-- Host writes in two parts. -/
theorem hostWrites_append (c : Cfg) (us vs : List HostWrite) (s : State) :
    hostWrites c (us ++ vs) s =
      match hostWrites c us s with
      | .next t => hostWrites c vs t
      | .fault r => .fault r
      | .refused r => .refused r := by
  induction us generalizing s with
  | nil => rfl
  | cons u us ih =>
    simp only [List.cons_append, hostWrites]
    cases hostWrite c u s with
    | next t => exact ih t
    | fault r => rfl
    | refused r => rfl

end Sys2Proof.Machine
end

