-- ==== Sys2Proof/Laws/PerInstr.lean ====
section
/-! SUPPORT. Laws/PerInstr.lean: statements about an instruction as syntax, one lemma per constructor of Instr.
EncodedLength: an instruction that has an encoding has as many bytes as its slot. -/

namespace Sys2Proof.Laws.EncodedLength

/-- The bytes of a well-formed instruction fill its slot (spec/30_encoding.md R70, R90). -/
def Statement (i : Instr) : Prop :=
  ∀ (c : Cfg) (slot : Slot) (b : List Byte), c.legal = true → wellFormed c i = true →
    Sys2Proof.encode c i = some (slot, b) → b.length = slotLen c slot

theorem legal_sizes {c : Cfg} (h : c.legal = true) :
    c.hdrBytes = 7 ∧ c.tcBytes = 5 ∧ c.cctBytes = 3 ∧ c.ftrBytes = 4 ∧ 1 ≤ c.svcEntryBytes := by
  simp only [Cfg.legal, Bool.and_eq_true, beq_iff_eq, decide_eq_true_eq] at h
  omega

theorem toBE_length (k x : Nat) : (Machine.toBE k x).length = k := by
  induction k with
  | zero => rfl
  | succ k ih => simp [Machine.toBE, ih]

theorem bfPack_length (k : Nat) (fields : List FieldVal) : (Machine.bfPack k fields).length = k :=
  toBE_length k _

theorem flatMap_one {α : Type} (l : List α) (f : α → List FieldVal) :
    (l.flatMap fun a => Machine.bfPack 1 (f a)).length = l.length := by
  induction l with
  | nil => rfl
  | cons a l ih =>
    rw [List.flatMap_cons, List.length_append, bfPack_length, ih, List.length_cons]
    omega

theorem header (e : HeaderEl) : Statement (.header e) := by
  intro c slot b hc _ h
  obtain ⟨rfl, rfl⟩ := Prod.mk.inj (Option.some.inj h)
  simp [encodeHeader, bfPack_length, slotLen, legal_sizes hc]

theorem timecode (e : TimeCodeEl) : Statement (.timecode e) := by
  intro c slot b hc _ h
  obtain ⟨rfl, rfl⟩ := Prod.mk.inj (Option.some.inj h)
  simp [encodeTimeCode, bfPack_length, slotLen, legal_sizes hc]

theorem ccdataHead (e : CountHeadEl) : Statement (.ccdataHead e) := by
  intro c slot b _ _ h
  obtain ⟨rfl, rfl⟩ := Prod.mk.inj (Option.some.inj h)
  simp [encodeCountHead, bfPack_length, slotLen]

theorem ccTriplet (e : TripletEl) : Statement (.ccTriplet e) := by
  intro c slot b hc _ h
  obtain ⟨rfl, rfl⟩ := Prod.mk.inj (Option.some.inj h)
  simp [encodeTriplet, bfPack_length, slotLen, legal_sizes hc]

theorem svcinfoHead (e : CountHeadEl) : Statement (.svcinfoHead e) := by
  intro c slot b _ _ h
  obtain ⟨rfl, rfl⟩ := Prod.mk.inj (Option.some.inj h)
  simp [encodeCountHead, bfPack_length, slotLen]

theorem svcEntry (e : SvcEntry) : Statement (.svcEntry e) := by
  intro c slot b hc hw h
  obtain ⟨rfl, rfl⟩ := Prod.mk.inj (Option.some.inj h)
  have := (legal_sizes hc).2.2.2.2
  have hw' : e.attr.length + 1 = c.svcEntryBytes := by simpa [wellFormed, wfSvcEntry] using hw
  simp only [encodeSvcEntry, List.length_append, bfPack_length, flatMap_one, List.length_take, slotLen]
  omega

theorem footer (e : FooterEl) : Statement (.footer e) := by
  intro c slot b hc _ h
  obtain ⟨rfl, rfl⟩ := Prod.mk.inj (Option.some.inj h)
  simp [encodeFooter, encodeFooterHead, bfPack_length, slotLen, legal_sizes hc]

theorem nop : Statement .nop := by
  intro c slot b _ _ h
  obtain ⟨rfl, rfl⟩ := Prod.mk.inj (Option.some.inj h)
  rfl

theorem decode : Statement .decode := by
  intro c slot b _ _ h
  obtain ⟨rfl, rfl⟩ := Prod.mk.inj (Option.some.inj h)
  rfl

theorem encode : Statement .encode := by
  intro c slot b _ _ h
  obtain ⟨rfl, rfl⟩ := Prod.mk.inj (Option.some.inj h)
  rfl

theorem ckCompute : Statement .ckCompute := by
  intro c slot b _ _ h
  obtain ⟨rfl, rfl⟩ := Prod.mk.inj (Option.some.inj h)
  rfl

theorem ckValidate : Statement .ckValidate := by
  intro c slot b _ _ h
  obtain ⟨rfl, rfl⟩ := Prod.mk.inj (Option.some.inj h)
  rfl

theorem seqObserve : Statement .seqObserve := by
  intro c slot b _ _ h
  obtain ⟨rfl, rfl⟩ := Prod.mk.inj (Option.some.inj h)
  rfl

theorem seqReset : Statement .seqReset := by
  intro c slot b _ _ h
  obtain ⟨rfl, rfl⟩ := Prod.mk.inj (Option.some.inj h)
  rfl

theorem reservedCmd7 : Statement .reservedCmd7 := by
  intro c slot b _ _ h
  obtain ⟨rfl, rfl⟩ := Prod.mk.inj (Option.some.inj h)
  rfl

theorem bfExtract (span : List Byte) (hi lo : Nat) : Statement (.bfExtract span hi lo) := by
  intro c slot b _ _ h
  exact absurd h (Option.some_ne_none _).symm

theorem bfPack (k : Nat) (fields : List FieldVal) : Statement (.bfPack k fields) := by
  intro c slot b _ _ h
  exact absurd h (Option.some_ne_none _).symm

theorem bfChkrsv (span : List Byte) (hi lo const off : Nat) : Statement (.bfChkrsv span hi lo const off) := by
  intro c slot b _ _ h
  exact absurd h (Option.some_ne_none _).symm

theorem secExpect (id : Byte) : Statement (.secExpect id) := by
  intro c slot b _ _ h
  exact absurd h (Option.some_ne_none _).symm

theorem hdrDec : Statement .hdrDec := by
  intro c slot b _ _ h
  exact absurd h (Option.some_ne_none _).symm

theorem hdrEnc : Statement .hdrEnc := by
  intro c slot b _ _ h
  exact absurd h (Option.some_ne_none _).symm

theorem tcDec : Statement .tcDec := by
  intro c slot b _ _ h
  exact absurd h (Option.some_ne_none _).symm

theorem tcEnc : Statement .tcEnc := by
  intro c slot b _ _ h
  exact absurd h (Option.some_ne_none _).symm

theorem ccDec : Statement .ccDec := by
  intro c slot b _ _ h
  exact absurd h (Option.some_ne_none _).symm

theorem ccEnc : Statement .ccEnc := by
  intro c slot b _ _ h
  exact absurd h (Option.some_ne_none _).symm

theorem cctDec (o : Nat) : Statement (.cctDec o) := by
  intro c slot b _ _ h
  exact absurd h (Option.some_ne_none _).symm

theorem cctEnc (t : Triplet) : Statement (.cctEnc t) := by
  intro c slot b _ _ h
  exact absurd h (Option.some_ne_none _).symm

theorem svcDec : Statement .svcDec := by
  intro c slot b _ _ h
  exact absurd h (Option.some_ne_none _).symm

theorem svcEnc : Statement .svcEnc := by
  intro c slot b _ _ h
  exact absurd h (Option.some_ne_none _).symm

theorem sveDec (o : Nat) : Statement (.sveDec o) := by
  intro c slot b _ _ h
  exact absurd h (Option.some_ne_none _).symm

theorem sveEnc (e : SvcEntry) : Statement (.sveEnc e) := by
  intro c slot b _ _ h
  exact absurd h (Option.some_ne_none _).symm

theorem ftrDec : Statement .ftrDec := by
  intro c slot b _ _ h
  exact absurd h (Option.some_ne_none _).symm

theorem ftrEnc : Statement .ftrEnc := by
  intro c slot b _ _ h
  exact absurd h (Option.some_ne_none _).symm

end Sys2Proof.Laws.EncodedLength
end

