-- ==== Sys2Proof/Laws/With.lean ====
section
/-! SUPPORT. Laws/With.lean: the machine is the machine under any configuration, at the default one. -/

namespace Sys2Proof.Machine

theorem exec_eq_execWith (i : Instr) (s : State) : exec i s = execWith cfg i s := by
  cases i <;> rfl

theorem step_eq_stepWith (s : State) : step s = stepWith cfg s :=
  exec_eq_execWith (fetch cfg s) s

end Sys2Proof.Machine
end

