-- ==== Sys2Proof/Tests/Slice0.lean ====
section
/-! SUPPORT. Tests/Slice0.lean: tests with results taken from spec/ (the worked examples of the rules and
spec/95_test_vectors.md), the WellFormed smoke test, and for each statement with hypotheses a state and operands
that meet them. -/

namespace Sys2Proof.Tests

open Sys2Proof Sys2Proof.Machine Sys2Proof.Safety

/-! ## Helpers -/

/-- Reset, with a buffer in `IN` and a mode. -/
def withIn (m : Mode) (b : List Byte) : State :=
  { State.reset with mode := m, inMem := memWriteBytes [] 0 b, inLen := b.length }

/-- A decode of a buffer under way: framing state, cursor, pending packet. -/
def atFrame (m : Mode) (b : List Byte) (st : FrameState) (cur : Nat) (p : Pending) : State :=
  { withIn m b with st := st, cur := cur, n := b.length, modeSample := m, pend := p }

/-- A bank with every register 0 and no entry. -/
def zeroBank : Bank where
  hdr := HeaderRegs.zero
  tcValid := 0
  tc := ⟨0, 0, 0, 0, 0, 0⟩
  ccValid := 0
  ccCount := 0
  cc := []
  svcValid := 0
  svcCount := 0
  svc := []
  fseq := 0
  cksum := 0

/-- A bank the host has written whole. -/
def withBank (f : Bank) : State :=
  { State.reset with f := f, fWritten := fixedRegs ++ encodeReads cfg f }

/-- The outcome is a next state with a property. -/
def nextIs (o : Out) (p : State → Bool) : Bool :=
  match o with
  | .next t => p t
  | .fault _ => false
  | .refused _ => false

/-- The outcome is this refusal. -/
def refuses (o : Out) (r : Refusal) : Bool :=
  match o with
  | .next _ => false
  | .fault _ => false
  | .refused r' => r' == r

/-- The result is there. -/
def isOk {ε α : Type} (x : Except ε α) : Bool :=
  match x with
  | .ok _ => true
  | .error _ => false

theorem exists_of_nextIs {o : Out} {p : State → Bool} (h : nextIs o p = true) : ∃ t, o = .next t ∧ p t = true := by
  cases o with
  | next t => exact ⟨t, rfl, h⟩
  | fault r => cases h
  | refused r => cases h

theorem exists_of_isOk {ε α : Type} {x : Except ε α} (h : isOk x = true) : ∃ a, x = .ok a := by
  cases x with
  | ok a => exact ⟨a, rfl⟩
  | error e => cases h

theorem exists_of_not_isOk {ε α : Type} {x : Except ε α} (h : isOk x = false) : ∃ e, x = .error e := by
  cases x with
  | ok a => cases h
  | error e => exact ⟨e, rfl⟩

/-- The state is `Failed` with this kind and offset. -/
def failed (k : ErrKind) (off : Nat) (t : State) : Bool :=
  t.st == .failed && t.errKind == k && t.errOff == off

/-- A word refused by the decoder. -/
def refusedAt (c : Cfg) (slot : Slot) (b : List Byte) : Bool :=
  !isOk (decodeAt c slot b)

/-- Flags with the three gating bits given. -/
def gates (tc cc svc : Bit) : Flags :=
  ⟨tc, cc, svc, 0, 0, 0, 0⟩

/-- `P1`, `P2`, `Q`, `P3` of spec/95_test_vectors.md 2.3 and P-C. -/
def p1 : List Byte := [0x96, 0x69, 0x0B, 0x4F, 0x01, 0x00, 0x00, 0x74, 0x00, 0x00, 0x32]
def p2 : List Byte := [0x96, 0x69, 0x10, 0x4F, 0x41, 0x00, 0x01, 0x72, 0xE1, 0xFC, 0x41, 0x00, 0x74, 0x00, 0x01, 0x5B]
def q : List Byte :=
  [0x96, 0x69, 0x15, 0x4F, 0xC1, 0x00, 0x02, 0x71, 0xD2, 0xB4, 0x56, 0xA9, 0x72, 0xE1, 0xFC, 0x41, 0x00] ++
    [0x74, 0x00, 0x02, 0xDE]
def p3 : List Byte :=
  [0x96, 0x69, 0x21, 0x4F, 0xE3, 0xFF, 0xFF, 0x71, 0xD2, 0xB4, 0x56, 0xA9] ++
    [0x72, 0xE2, 0xFC, 0x94, 0x2C, 0xFA, 0x00, 0x00, 0x73, 0xE1, 0x01, 0x65, 0x6E, 0x67, 0xC1, 0x3F, 0xFF] ++
    [0x74, 0xFF, 0xFF, 0xB0]

/-- The time code of R114's example, the entry of R120's. -/
def tc1 : TimeCode := ⟨0x12, 0x34, 0, 0x56, 1, 0x29⟩
def sv1 : SvcEntry := ⟨1, [0x65, 0x6E, 0x67, 0xC1, 0x3F, 0xFF]⟩

/-- The record of EV-2: `fr=4 flags=[cc] seq=1 cc=[(1,0,41,00)]`. -/
def bank2 : Bank :=
  { zeroBank with
    hdr := ⟨0, 0, 4, gates 0 1 0, 1⟩
    ccValid := 1
    ccCount := 1
    cc := [⟨1, 0, 0x41, 0x00⟩] }

/-- A bank with all three members. -/
def bank3 : Bank :=
  { zeroBank with
    hdr := ⟨0, 0, 4, gates 1 1 1, 0xFFFF⟩
    tcValid := 1
    tc := tc1
    ccValid := 1
    ccCount := 2
    cc := [⟨1, 0, 0x94, 0x2C⟩, ⟨0, 2, 0, 0⟩]
    svcValid := 1
    svcCount := 1
    svc := [sv1] }

/-- The pending packet of P-C as a section of it is reached. -/
def pend3 : Pending :=
  { Pending.empty with hdr := ⟨0x9669, 33, 4, gates 1 1 1, 0xFFFF⟩ }

/-! ## WellFormed: for each check a term it refuses -/

theorem test_wf_header :
    wellFormed cfg (.header ⟨0x9669, 16, 4, 15, gates 0 1 0, 1, 1⟩) = true ∧
      wellFormed cfg (.header ⟨0x9668, 16, 4, 15, gates 0 1 0, 1, 1⟩) = false ∧
      wellFormed cfg (.header ⟨0x9669, 16, 4, 14, gates 0 1 0, 1, 1⟩) = false ∧
      wellFormed cfg (.header ⟨0x9669, 16, 4, 15, gates 0 1 0, 0, 1⟩) = false := by
  decide

theorem test_wf_timecode :
    wellFormed cfg (.timecode ⟨0x71, 3, 1, 0, tc1⟩) = true ∧
      wellFormed cfg (.timecode ⟨0x72, 3, 1, 0, tc1⟩) = false ∧
      wellFormed cfg (.timecode ⟨0x71, 2, 1, 0, tc1⟩) = false ∧
      wellFormed cfg (.timecode ⟨0x71, 3, 0, 0, tc1⟩) = false ∧
      wellFormed cfg (.timecode ⟨0x71, 3, 1, 1, tc1⟩) = false := by
  decide

theorem test_wf_heads :
    wellFormed cfg (.ccdataHead ⟨0x72, 7, 31⟩) = true ∧ wellFormed cfg (.ccdataHead ⟨0x73, 7, 31⟩) = false ∧
      wellFormed cfg (.ccdataHead ⟨0x72, 6, 31⟩) = false ∧
      wellFormed { cfg with ccCountMax := 20 } (.ccdataHead ⟨0x72, 7, 21⟩) = false ∧
      wellFormed cfg (.svcinfoHead ⟨0x73, 7, 31⟩) = true ∧ wellFormed cfg (.svcinfoHead ⟨0x72, 7, 31⟩) = false ∧
      wellFormed cfg (.svcinfoHead ⟨0x73, 3, 31⟩) = false ∧
      wellFormed { cfg with svcCountMax := 20 } (.svcinfoHead ⟨0x73, 7, 21⟩) = false := by
  decide

theorem test_wf_entries_and_footer :
    wellFormed cfg (.ccTriplet ⟨31, ⟨1, 0, 0x41, 0⟩⟩) = true ∧
      wellFormed cfg (.ccTriplet ⟨15, ⟨1, 0, 0x41, 0⟩⟩) = false ∧
      wellFormed cfg (.svcEntry sv1) = true ∧ wellFormed cfg (.svcEntry ⟨1, [0, 0]⟩) = false ∧
      wellFormed cfg (.sveEnc sv1) = true ∧ wellFormed cfg (.sveEnc ⟨1, []⟩) = false ∧
      wellFormed cfg (.footer ⟨0x74, 1, 0x5B⟩) = true ∧ wellFormed cfg (.footer ⟨0x73, 1, 0x5B⟩) = false := by
  decide

theorem test_wf_bitfields :
    wellFormed cfg (.bfExtract [0xE1] 7 0) = true ∧ wellFormed cfg (.bfExtract [0xE1] 8 0) = false ∧
      wellFormed cfg (.bfExtract [0xE1] 3 4) = false ∧
      wellFormed cfg (.bfPack 1 [⟨7, 3, 31⟩, ⟨2, 2, 1⟩, ⟨1, 0, 0⟩]) = true ∧
      wellFormed cfg (.bfPack 0 []) = false ∧ wellFormed cfg (.bfPack 1 [⟨7, 3, 31⟩, ⟨1, 0, 0⟩]) = false ∧
      wellFormed cfg (.bfPack 1 [⟨7, 3, 31⟩, ⟨3, 0, 0⟩]) = false ∧
      wellFormed cfg (.bfPack 1 [⟨7, 3, 32⟩, ⟨2, 0, 0⟩]) = false ∧
      wellFormed cfg (.bfChkrsv [0x4E] 3 0 15 3) = true ∧ wellFormed cfg (.bfChkrsv [0x4E] 8 0 15 3) = false ∧
      wellFormed cfg (.bfChkrsv [0x4E] 3 0 16 3) = false := by
  decide

/-! ## Decoding: a word of each encodable instruction, bit by bit from its encoding, and the encoder on it -/

/-- spec/30_encoding.md R71 to R73 on the header of `P2`: 96 69 10 4F 41 00 01. -/
theorem test_decode_header :
    decodeTableWord 56 0b10010110011010010001000001001111010000010000000000000001 =
      some (.header ⟨0x9669, 16, 4, 15, ⟨0, 1, 0, 0, 0, 0, 0⟩, 1, 1⟩) := by
  decide

/-- spec/30_encoding.md R75, spec/41_section_codec.md R114 example: 71 D2 B4 56 A9. -/
theorem test_decode_timecode :
    decodeTableWord 40 0b0111000111010010101101000101011010101001 = some (.timecode ⟨0x71, 3, 1, 0, tc1⟩) := by
  decide

/-- spec/30_encoding.md R76: 72 E1. -/
theorem test_decode_ccdataHead : decodeTableWord 16 0b0111001011100001 = some (.ccdataHead ⟨0x72, 7, 1⟩) := by
  decide

/-- spec/30_encoding.md R77: FA 00 00. -/
theorem test_decode_ccTriplet :
    decodeTableWord 24 0b111110100000000000000000 = some (.ccTriplet ⟨31, ⟨0, 2, 0, 0⟩⟩) := by
  decide

/-- spec/30_encoding.md R78: 73 FF. -/
theorem test_decode_svcinfoHead : decodeTableWord 16 0b0111001111111111 = some (.svcinfoHead ⟨0x73, 7, 31⟩) := by
  decide

/-- spec/30_encoding.md R79: 01 65 6E 67 C1 3F FF. -/
theorem test_decode_svcEntry :
    decodeTableWord 56 0b00000001011001010110111001100111110000010011111111111111 = some (.svcEntry sv1) := by
  decide

/-- spec/30_encoding.md R80: 74 00 01 5B. -/
theorem test_decode_footer :
    decodeTableWord 32 0b01110100000000000000000101011011 = some (.footer ⟨0x74, 1, 0x5B⟩) := by
  decide

/-- spec/30_encoding.md R90, R91: the eight codes, and a byte that is no code. -/
theorem test_decode_commands :
    decodeTableWord 8 0b00000000 = some .nop ∧ decodeTableWord 8 0b00000001 = some .decode ∧
      decodeTableWord 8 0b00000010 = some .encode ∧ decodeTableWord 8 0b00000011 = some .ckCompute ∧
      decodeTableWord 8 0b00000100 = some .ckValidate ∧ decodeTableWord 8 0b00000101 = some .seqObserve ∧
      decodeTableWord 8 0b00000110 = some .seqReset ∧ decodeTableWord 8 0b00000111 = some .reservedCmd7 ∧
      decodeTableWord 8 0b00001000 = none := by
  decide

/-- spec/30_encoding.md R83, R84: a wrong fixed bit, a wrong identifier and a short element are refused. -/
theorem test_decode_refuses :
    refusedAt cfg .header [0x96, 0x69, 0x10, 0x4E, 0x41, 0x00, 0x01] = true ∧
      refusedAt cfg .timeCode [0x72, 0xD2, 0xB4, 0x56, 0xA9] = true ∧ refusedAt cfg .ccHead [0x72, 0x20] = true ∧
      refusedAt cfg .ccTriplet [0x04, 0x41, 0x00] = true ∧ refusedAt cfg .svcHead [0x73] = true ∧
      refusedAt cfg .footer [0x74, 0x00, 0x01] = true ∧ refusedAt cfg .port [0x08] = true := by
  decide

/-- The encoder on the same elements (spec/41_section_codec.md R113, R115, R118, R119, R122, R123; R80). -/
theorem test_encode_elements :
    encode cfg (.header ⟨0x9669, 16, 4, 15, gates 0 1 0, 1, 1⟩) =
        some (.header, [0x96, 0x69, 0x10, 0x4F, 0x41, 0x00, 0x01]) ∧
      encode cfg (.timecode ⟨0x71, 3, 1, 0, tc1⟩) = some (.timeCode, [0x71, 0xD2, 0xB4, 0x56, 0xA9]) ∧
      encode cfg (.ccdataHead ⟨0x72, 7, 1⟩) = some (.ccHead, [0x72, 0xE1]) ∧
      encode cfg (.ccTriplet ⟨31, ⟨0, 2, 0, 0⟩⟩) = some (.ccTriplet, [0xFA, 0x00, 0x00]) ∧
      encode cfg (.svcinfoHead ⟨0x73, 7, 1⟩) = some (.svcHead, [0x73, 0xE1]) ∧
      encode cfg (.svcEntry sv1) = some (.svcEntry, [0x01, 0x65, 0x6E, 0x67, 0xC1, 0x3F, 0xFF]) ∧
      encode cfg (.footer ⟨0x74, 1, 0x5B⟩) = some (.footer, [0x74, 0x00, 0x01, 0x5B]) := by
  decide

/-- A word placed where the next instruction is fetched runs there (spec/43_packet_decode.md R153). -/
theorem test_withFetchWord :
    nextIs (step (State.reset.withFetchWord 56 0x9669104F410001)) (fun t => t.st == .failed && t.errOff == 7) = true ∧
      nextIs (step (State.reset.withFetchWord 40 0x71D2B456A9)) (fun t => t.cur == 5 && t.st == .footer) = true ∧
      nextIs (step (State.reset.withFetchWord 24 0xFA0000))
        (fun t => t.pend.cc == some (1, [⟨0, 2, 0, 0⟩]) && t.st == .footer) = true ∧
      nextIs (step (State.reset.withFetchWord 8 5)) (fun t => t.lastSeq == some 0) = true := by
  decide

/-! ## Wire elements: the table of program P-C, spec/95_test_vectors.md -/

theorem test_header_p3 :
    nextIs (step (atFrame .strict p3 .header 0 Pending.empty))
      (fun t => t.cur == 7 && t.st == .timeCode && t.pend.hdr.len == 33 && t.pend.hdr.hseq == 0xFFFF) = true := by
  decide

/-- DV-4: byte 0 is 97. -/
theorem test_header_magic :
    nextIs (step (atFrame .lenient (0x97 :: p2.tail) .header 0 Pending.empty)) (failed .invalidMagic 0) = true := by
  decide

theorem test_timecode_p3 :
    nextIs (step (atFrame .strict p3 .timeCode 7 pend3))
      (fun t => t.cur == 12 && t.st == .ccData && t.pend.tc == some tc1) = true := by
  decide

/-- DV-26: the frames marker is 1; lenient mode keeps the fields. -/
theorem test_timecode_lenient :
    nextIs (step (atFrame .lenient (p3.set 11 0xE9) .timeCode 7 pend3))
      (fun t => t.warn == [11] && t.pend.tc == some tc1) = true := by
  decide

theorem test_ccdataHead_p3 :
    nextIs (step (atFrame .strict p3 .ccData 12 pend3))
      (fun t => t.cur == 14 && t.st == .ccData && t.pend.cc == some (2, [])) = true := by
  decide

/-- DV-20: a count byte of value 32 is marker 001. -/
theorem test_ccdataHead_marker :
    nextIs (step (atFrame .strict (p2.set 8 0x20) .ccData 7 pend3)) (failed .reservedBitMismatch 8) = true := by
  decide

theorem test_ccTriplet_p3 :
    nextIs (step (atFrame .strict p3 .ccData 17 { pend3 with cc := some (2, [⟨1, 0, 0x94, 0x2C⟩]) }))
      (fun t => t.cur == 20 && t.st == .serviceInfo &&
        t.pend.cc == some (2, [⟨1, 0, 0x94, 0x2C⟩, ⟨0, 2, 0, 0⟩])) = true := by
  decide

/-- DV-24: a triplet marker of 00000. -/
theorem test_ccTriplet_marker :
    nextIs (step (atFrame .strict (p2.set 9 0x04) .ccData 9 { pend3 with cc := some (1, []) }))
      (failed .reservedBitMismatch 9) = true := by
  decide

theorem test_svcinfoHead_p3 :
    nextIs (step (atFrame .strict p3 .serviceInfo 20 pend3))
      (fun t => t.cur == 22 && t.st == .serviceInfo && t.pend.svc == some (1, [])) = true := by
  decide

theorem test_svcEntry_p3 :
    nextIs (step (atFrame .strict p3 .serviceInfo 22 { pend3 with svc := some (1, []) }))
      (fun t => t.cur == 29 && t.st == .footer && t.pend.svc == some (1, [sv1])) = true := by
  decide

theorem test_footer_p3 :
    nextIs (step (atFrame .strict p3 .footer 29 pend3))
      (fun t => t.st == .done && t.consumed == 33 && t.sum == 0 && t.f.fseq == 0xFFFF && t.f.cksum == 0xB0) = true := by
  decide

/-- DV-29: the counters differ; reported before the broken checksum. -/
theorem test_footer_counter :
    nextIs (step (atFrame .strict (p3.set 31 0xFE) .footer 29 pend3)) (failed .sequenceMismatch 30) = true := by
  decide

/-! ## Commands -/

/-- P-E steps 2 and 3: after a failure NOP changes nothing and code 7 is refused. -/
theorem test_nop_and_code7 :
    nextIs (hostCommand 0 { withBank bank2 with st := .failed, errKind := .invalidMagic })
        (fun t => t == { withBank bank2 with st := .failed, errKind := .invalidMagic }) = true ∧
      refuses (hostCommand 7 State.reset) .reservedCommand = true := by
  decide

/-- DV-2. -/
theorem test_decode_p2 :
    nextIs (hostCommand 1 (withIn .strict p2))
      (fun t => t.st == .done && t.consumed == 16 && t.warn == [] && t.f.hdr.fr == 4 && t.f.hdr.len == 16 &&
        t.f.cc == [⟨1, 0, 0x41, 0⟩] && t.f.ccValid == 1 && t.f.tcValid == 0 && t.f.cksum == 0x5B) = true := by
  decide

/-- DV-27: the order of the warnings. -/
theorem test_decode_warnings :
    nextIs (hostCommand 1 (withIn .lenient
        ([0x96, 0x69, 0x15, 0x40, 0xC0, 0x00, 0x02, 0x71, 0x12, 0x34, 0x56, 0xE9, 0x72, 0x01, 0x04, 0x41, 0x00] ++
          [0x74, 0x00, 0x02, 0xC6])))
      (fun t => t.st == .done && t.warn == [3, 4, 8, 9, 11, 13, 14] && t.f.tc == tc1) = true := by
  decide

/-- EV-2. -/
theorem test_encode_ev2 :
    nextIs (hostCommand 2 (withBank bank2)) (fun t => t.st == .done && outBytes t == p2 && t.cur == 16) = true := by
  decide

/-- EV-12: the flag check precedes the frame-rate check. -/
theorem test_encode_ev12 :
    nextIs (hostCommand 2 (withBank { bank2 with hdr := ⟨0, 0, 0, gates 0 1 0, 1⟩, ccValid := 0 }))
      (failed .inconsistentFlags 0) = true := by
  decide

/-- CV-6, CV-3. -/
theorem test_ckCompute :
    nextIs (hostCommand 3 (withIn .strict p2.dropLast)) (fun t => t.result == 0x5B && t.st == .done) = true ∧
      nextIs (hostCommand 3 (withIn .strict [1])) (fun t => t.result == 0xFF) = true := by
  decide

/-- CV-7, CV-8. -/
theorem test_ckValidate :
    nextIs (hostCommand 4 (withIn .strict p2)) (fun t => t.result == 1) = true ∧
      nextIs (hostCommand 4 (withIn .strict (p2.set 15 0x5A))) (fun t => t.result == 0) = true ∧
      nextIs (hostCommand 4 (withIn .strict [])) (fun t => t.result == 1 && t.st == .idle) = true := by
  decide

/-- DV-24 in strict mode fails at the triplet: the cursor has passed the section's head (spec/10_state.md R33). -/
theorem test_decode_cursor :
    nextIs (hostCommand 1 (withIn .strict
        ([0x96, 0x69, 0x10, 0x4F, 0x41, 0x00, 0x01, 0x72, 0xE1, 0x04, 0x41, 0x00] ++ [0x74, 0x00, 0x01, 0x53])))
      (fun t => failed .reservedBitMismatch 9 t && t.cur == 9) = true := by
  decide

/-- The header of P-A step 1, written register by register, and the two clear tags. -/
def pA : List HostWrite :=
  [.fFr 4, .fTcPresent 0, .fCcPresent 1, .fSvcPresent 0, .fSvcStart 0, .fSvcChange 0, .fSvcComplete 0, .fCsActive 0] ++
    [.fHseq 1, .fTcValid 0, .fSvcValid 0, .fCcValid 1]

/-- Reset, the free values in `F` happening to be 0: a value for the tests to compute with. -/
def blank : State :=
  { State.reset with f := zeroBank }

/-- Host writes, then ENCODE, give these bytes. -/
def encodesTo (ws : List HostWrite) (b : List Byte) : Bool :=
  nextIs (hostWrites cfg ws blank) fun s => nextIs (hostCommand 2 s) fun t => t.st == .done && outBytes t == b

/-- P-A steps 1 and 2: count then entry, entry then count, and the entry's registers one by one, the count among them
(spec/70_reset_and_hazards.md R232). -/
theorem test_host_write_order :
    encodesTo (pA ++ [.fCcCount 1, .fCcEntry 0 ⟨1, 0, 0x41, 0⟩]) p2 = true ∧
      encodesTo (pA ++ [.fCcEntry 0 ⟨1, 0, 0x41, 0⟩, .fCcCount 1]) p2 = true ∧
      encodesTo ([.fCcEntryD2 0 0, .fCcEntryD1 0 0x41] ++ pA ++ [.fCcCount 1, .fCcEntryType 0 0, .fCcEntryValid 0 1])
        p2 = true := by
  decide

/-- A count alone leaves its entry unwritten: the host may not issue ENCODE (spec/70_reset_and_hazards.md R233), and the
operation itself emits a packet of 16 bytes, a free value in the entry (spec/44_packet_encode.md R178; log entry 3). -/
theorem test_host_count_alone :
    nextIs (hostWrites cfg (pA ++ [.fCcCount 1]) State.reset) (fun s =>
      refuses (hostCommand 2 s) .unwrittenOperand &&
        nextIs (exec .encode s) fun t => t.st == .done && t.outLen == 16) = true := by
  decide

/-- ENCODE right after reset: no move of the host (spec/70_reset_and_hazards.md R233), and total as an operation
(spec/44_packet_encode.md R170; log entry 3). -/
theorem test_encode_after_reset :
    hostCommand 2 State.reset = .refused .unwrittenOperand ∧ ∃ t, step { State.reset with cmd := 2 } = .next t :=
  ⟨rfl, _, rfl⟩

/-- A bank of 7-byte entries encoded under another width has entries of that width (spec/44_packet_encode.md R175). -/
theorem test_encode_other_width :
    [1, 4, 9].all (fun w => nextIs (execWith { cfg with svcEntryBytes := w } .encode (withBank bank3)) fun t =>
      t.st == .done && t.outLen == 7 + 5 + 8 + (2 + w) + 4) = true := by
  decide

/-- An ENCODE issued and done leaves no command on the port: after a new count, whose entry nothing has written, neither a
step nor an issue runs ENCODE (spec/60_exceptions.md R215, spec/70_reset_and_hazards.md R233). -/
theorem test_port_quiet :
    nextIs (hostWrites cfg [.cmd 2, .fCcCount 3] (withBank bank2)) (fun s =>
      s.cmd == 0 && nextIs (step s) (fun t => t.draws == s.draws && t.errKind == .none) &&
        refuses (hostWrite cfg (.cmd 2) s) .unwrittenOperand) = true := by
  decide

/-- An entry's attributes are `ATTR[0]` to `ATTR[5]` (spec/10_state.md R27). -/
theorem test_regExists :
    hostMayRead cfg (.svcEntryAttr 0 5) (withBank bank3) = true ∧
      hostMayRead cfg (.svcEntryAttr 0 6) (withBank bank3) = false ∧
      hostMayRead cfg (.svcEntryAttr 1 0) (withBank bank3) = false ∧ hostMayRead cfg (.ccEntryD2 1) (withBank bank3) = true ∧
      hostMayRead cfg (.ccEntryD2 2) (withBank bank3) = false := by
  decide

/-- An entry whose index is at or past a smaller `Cfg.ccCountMax` is accepted before and after its count, up to the 31
entries a 5-bit count can speak of (spec/70_reset_and_hazards.md R232, spec/10_state.md R26). -/
theorem test_host_small_maximum :
    nextIs (hostWrites { cfg with ccCountMax := 5 } [.fCcEntry 7 ⟨1, 0, 0x41, 0⟩, .fCcCount 8] blank)
        (fun t => (ccEntries t.f)[7]? == some ⟨1, 0, 0x41, 0⟩) = true ∧
      nextIs (hostWrites { cfg with ccCountMax := 5 } [.fCcCount 8, .fCcEntry 7 ⟨1, 0, 0x41, 0⟩] blank)
        (fun t => (ccEntries t.f)[7]? == some ⟨1, 0, 0x41, 0⟩) = true ∧
      refuses (hostWrites cfg [.fCcCount 8, .fCcEntryD1 31 0] State.reset) .badWrite = true := by
  decide

/-- TV-6, TV-7: the boundary of decision D25. -/
theorem test_seqObserve :
    nextIs (hostCommand 5 { State.reset with lastSeq := some 0, operand := 32767 })
        (fun t => t.report == ⟨.gap, 32766⟩ && t.lastSeq == some 32767) = true ∧
      nextIs (hostCommand 5 { State.reset with lastSeq := some 0, operand := 32768 })
        (fun t => t.report == ⟨.reorder, 0⟩ && t.lastSeq == some 32768) = true := by
  decide

/-- TV-10: `SEQ_RESET` between two observations; the report stays. -/
theorem test_seqReset :
    nextIs (hostCommand 6 { State.reset with lastSeq := some 5, report := ⟨.gap, 3⟩ })
      (fun t => t.lastSeq == none && t.report == ⟨.gap, 3⟩) = true := by
  decide

/-! ## Internal operations -/

/-- BV-7, BV-6. -/
theorem test_bfExtract :
    nextIs (exec (.bfExtract [0xFF, 0xFE] 15 0) State.reset) (fun t => t.ret == .value 65534) = true ∧
      nextIs (exec (.bfExtract [0x20] 7 5) State.reset) (fun t => t.ret == .value 1) = true := by
  decide

/-- BV-11, BV-16. -/
theorem test_bfPack :
    nextIs (exec (.bfPack 1 [⟨7, 3, 31⟩, ⟨2, 2, 1⟩, ⟨1, 0, 0⟩]) State.reset) (fun t => t.ret == .span [0xFC]) = true ∧
      nextIs (exec (.bfPack 2 [⟨15, 0, 0x9669⟩]) State.reset) (fun t => t.ret == .span [0x96, 0x69]) = true := by
  decide

/-- BV-17, BV-18. -/
theorem test_bfChkrsv :
    nextIs (exec (.bfChkrsv [0x4E] 3 0 15 3) State.reset) (failed .reservedBitMismatch 3) = true ∧
      nextIs (exec (.bfChkrsv [0x4E] 3 0 15 3) { State.reset with mode := .lenient })
        (fun t => t.warn == [3] && t.st == .idle) = true := by
  decide

/-- The example of spec/41_section_codec.md R110. -/
theorem test_secExpect :
    nextIs (exec (.secExpect 0x71) (atFrame .strict p2 .timeCode 7 pend3)) (failed .unexpectedSectionId 7) = true := by
  decide

/-- The example of spec/41_section_codec.md R112. -/
theorem test_hdrDec :
    nextIs (exec .hdrDec (atFrame .strict p1 .header 0 Pending.empty))
      (fun t => t.ret == .header ⟨0x9669, 11, 4, gates 0 0 0, 0⟩ 7) = true := by
  decide

/-- The examples of spec/41_section_codec.md R114, R116. -/
theorem test_tcDec_ccDec :
    nextIs (exec .tcDec (atFrame .strict p3 .timeCode 7 pend3)) (fun t => t.ret == .timeCode tc1 5) = true ∧
      nextIs (exec .ccDec (atFrame .strict p2 .ccData 7 pend3))
        (fun t => t.ret == .ccData [⟨1, 0, 0x41, 0⟩] 5) = true := by
  decide

/-- The examples of spec/41_section_codec.md R117, R120, R121, R124. -/
theorem test_entry_decodes :
    nextIs (exec (.cctDec 17) (atFrame .strict p3 .ccData 12 pend3)) (fun t => t.ret == .triplet ⟨0, 2, 0, 0⟩) = true ∧
      nextIs (exec .svcDec (atFrame .strict p3 .serviceInfo 20 pend3)) (fun t => t.ret == .svcInfo [sv1] 9) = true ∧
      nextIs (exec (.sveDec 22) (atFrame .strict p3 .serviceInfo 20 pend3)) (fun t => t.ret == .entry sv1) = true ∧
      nextIs (exec .ftrDec (atFrame .strict p2 .footer 12 pend3)) (fun t => t.ret == .footer 1 0x5B 4) = true := by
  decide

/-- The examples of spec/41_section_codec.md R113, R115, R125. -/
theorem test_fixed_encodes :
    nextIs (exec .hdrEnc (withBank bank2)) (fun t => outBytes t == [0x96, 0x69, 0x00, 0x4F, 0x41, 0x00, 0x01]) = true ∧
      nextIs (exec .tcEnc (withBank bank3)) (fun t => outBytes t == [0x71, 0xD2, 0xB4, 0x56, 0xA9]) = true ∧
      nextIs (exec .ftrEnc (withBank bank2)) (fun t => outBytes t == [0x74, 0x00, 0x01]) = true := by
  decide

/-- The examples of spec/41_section_codec.md R118, R119, R122, R123. -/
theorem test_counted_encodes :
    nextIs (exec .ccEnc (withBank bank2)) (fun t => outBytes t == [0x72, 0xE1, 0xFC, 0x41, 0x00]) = true ∧
      nextIs (exec (.cctEnc ⟨0, 2, 0, 0⟩) (withBank bank2)) (fun t => outBytes t == [0xFA, 0x00, 0x00]) = true ∧
      nextIs (exec .svcEnc (withBank bank3))
        (fun t => outBytes t == [0x73, 0xE1, 0x01, 0x65, 0x6E, 0x67, 0xC1, 0x3F, 0xFF]) = true ∧
      nextIs (exec (.sveEnc sv1) (withBank bank3))
        (fun t => outBytes t == [0x01, 0x65, 0x6E, 0x67, 0xC1, 0x3F, 0xFF]) = true := by
  decide

/-! ## Witnesses: for each statement with hypotheses, a state and operands that meet them together -/

/-- A lenient decode with a warning: DV-24. -/
def dv24 : List Byte :=
  [0x96, 0x69, 0x10, 0x4F, 0x41, 0x00, 0x01, 0x72, 0xE1, 0x04, 0x41, 0x00, 0x74, 0x00, 0x01, 0x53]

/-- Section without flag: DV-17. -/
def dv17 : List Byte :=
  [0x96, 0x69, 0x10, 0x4F, 0x01, 0x00, 0x01, 0x72, 0xE1, 0xFC, 0x41, 0x00, 0x74, 0x00, 0x01, 0x9B]

theorem test_witness_step :
    (∃ i, decodeAt cfg (slotOf (atFrame .strict p2 .header 0 Pending.empty))
        (fetchBytes cfg (atFrame .strict p2 .header 0 Pending.empty)) = .ok i) ∧
      (∃ i, decodeAt cfg (slotOf State.reset) (fetchBytes cfg State.reset) = .ok i) ∧ busy State.reset = false :=
  ⟨exists_of_isOk (by decide), exists_of_isOk (by decide), by decide⟩

theorem test_witness_decode_of_encode :
    cfg.legal = true ∧ wellFormed cfg (.svcEntry sv1) = true ∧
      encode cfg (.svcEntry sv1) = some (.svcEntry, [0x01, 0x65, 0x6E, 0x67, 0xC1, 0x3F, 0xFF]) := by
  decide

theorem test_witness_encode_of_decode :
    cfg.legal = true ∧ ∃ i, decodeAt cfg .header p2 = .ok i :=
  ⟨by decide, exists_of_isOk (by decide)⟩

theorem test_witness_port :
    busy { State.reset with cmd := 0b111 } = false ∧ { State.reset with cmd := 0b111 }.cmd = 0b111 ∧
      busy State.reset = false ∧ State.reset.cmd = 0b000 ∧ isCommand .decode = true ∧
      busy (atFrame .strict p2 .header 0 Pending.empty) = true := by
  decide

theorem test_witness_decode_done :
    busy (withIn .strict p2) = false ∧
      ∃ d, decodePacket cfg (withIn .strict p2).mode (operandBytes (withIn .strict p2)) = .ok d :=
  ⟨by decide, exists_of_isOk (by decide)⟩

theorem test_witness_decode_failed :
    busy (withIn .strict []) = false ∧
      ∃ a, decodePacket cfg (withIn .strict []).mode (operandBytes (withIn .strict [])) = .error a :=
  ⟨by decide, exists_of_not_isOk (by decide)⟩

/-- For DoneDecodeIsWellFormed, TrailingBytesAreIgnored, WarningsAreInWireOrder, StrictDecodeThenEncodeReproduces and
the first clause of LenientAgreesWithStrict: both modes, one with a warning. -/
theorem test_witness_packet_decodes :
    cfg.legal = true ∧ (∃ d, decodePacket cfg .strict p1 = .ok d) ∧ ∃ d, decodePacket cfg .lenient dv24 = .ok d :=
  ⟨by decide, exists_of_isOk (by decide), exists_of_isOk (by decide)⟩

theorem test_witness_lenient_same_failure :
    ∃ a, decodePacket cfg .strict p2.dropLast = .error a ∧ a.raised.kind ≠ .reservedBitMismatch :=
  ⟨⟨⟨.truncatedBuffer, 15⟩, 0⟩, by rfl, by decide⟩

theorem test_witness_first_section :
    8 ≤ dv17.length ∧ ∃ h w, hdrDecOf cfg .strict [] dv17 = .ok (h, w) ∧ byteAt dv17 7 ≠ firstSectionId cfg h.flags :=
  ⟨by decide, ⟨0x9669, 16, 4, gates 0 0 0, 1⟩, [], by rfl, by decide⟩

theorem test_witness_command_kinds :
    busy (withIn .strict p1) = false ∧ (∃ t, exec .decode (withIn .strict p1) = .next t) ∧
      busy (withBank bank2) = false ∧ ∃ t, exec .encode (withBank bank2) = .next t := by
  have h1 := exists_of_nextIs (o := exec .decode (withIn .strict p1)) (p := fun _ => true) (by decide)
  have h2 := exists_of_nextIs (o := exec .encode (withBank bank2)) (p := fun _ => true) (by decide)
  exact ⟨by decide, h1.imp fun _ h => h.1, by decide, h2.imp fun _ h => h.1⟩

theorem test_witness_framing :
    busy (atFrame .strict p3 .footer 29 pend3) = true ∧ frameOk (atFrame .strict p3 .footer 29 pend3) = true ∧
      ∃ t, step (atFrame .strict p3 .footer 29 pend3) = .next t := by
  have h := exists_of_nextIs (o := step (atFrame .strict p3 .footer 29 pend3)) (p := fun _ => true) (by decide)
  exact ⟨by decide, by decide, h.imp fun _ h => h.1⟩

/-- For EncodeEndsInDone, EncodedPacketShape, EncodeThenDecodeRoundTrip and MachineRoundTrip. -/
theorem test_witness_encode :
    busy (withBank bank3) = false ∧ memWf (withBank bank3).outMem = true ∧
      memWf (withBank bank3).inMem = true ∧ cfg.legal = true ∧ entriesWhole cfg (bankPkt cfg bank3) = true ∧
      ∃ bytes, encodePacket cfg (bankPkt cfg (withBank bank3).f) = .ok bytes :=
  ⟨by decide, by decide, by decide, by decide, by decide, exists_of_isOk (by decide)⟩

/-- A bank of 31 triplets and `k` service entries, flags in step. -/
def bankFull (k : Nat) : Bank :=
  { zeroBank with
    hdr := ⟨0, 0, 4, gates 0 1 1, 3⟩
    ccValid := 1
    ccCount := 31
    cc := List.replicate 31 ⟨1, 0, 0x80, 0x80⟩
    svcValid := 1
    svcCount := k
    svc := List.replicate k sv1 }

/-- A state for each clause of EncodeFailsInCheckOrder: EV-10, EV-11, EV-5, EV-13 on both sides of 255 bytes. -/
theorem test_witness_encode_checks :
    nextIs (exec .encode (withBank { bank2 with hdr := ⟨0, 0, 4, gates 0 0 0, 1⟩ })) (failed .inconsistentFlags 0) = true ∧
      nextIs (exec .encode (withBank { bank2 with hdr := ⟨0, 0, 9, gates 0 1 0, 1⟩ })) (failed .invalidFrameRate 0) = true ∧
      nextIs (exec .encode (withBank { bank2 with ccCount := 32 })) (failed .countOverflow 0) = true ∧
      pktLength cfg (bankPkt cfg (bankFull 22)) = 262 ∧
      nextIs (exec .encode (withBank (bankFull 22))) (failed .countOverflow 0) = true ∧
      pktLength cfg (bankPkt cfg (bankFull 21)) = 255 ∧ busy (withBank (bankFull 21)) = false := by
  decide

/-- For the last clause of EncodedPacketShape: a configuration of another entry width. -/
theorem test_witness_packet_shape :
    ({ cfg with svcEntryBytes := 9 } : Cfg).legal = true ∧
      ∃ t, execWith { cfg with svcEntryBytes := 9 } .encode (withBank bank3) = .next t ∧ t.st = .done := by
  have h := exists_of_nextIs (o := execWith { cfg with svcEntryBytes := 9 } .encode (withBank bank3))
    (p := fun t => t.st == .done) (by decide)
  exact ⟨by decide, h.imp fun t h => ⟨h.1, by simpa using h.2⟩⟩

theorem test_witness_encode_reads :
    busy (withBank bank2) = false ∧ ∃ t, exec .encode (withBank bank2) = .next t ∧ t.st = .done := by
  have h := exists_of_nextIs (o := exec .encode (withBank bank2)) (p := fun t => t.st == .done) (by decide)
  exact ⟨by decide, h.imp fun t h => ⟨h.1, by simpa using h.2⟩⟩

/-- For EncodeOfUnwrittenRegisters: a bank written and one not, a failed DECODE, and an encoder's step. -/
theorem test_witness_unwritten :
    PortQuiet (withBank bank2) ∧ (∃ t, hostWrite cfg (.cmd 2) (withBank bank2) = .next t) ∧
      busy (withBank bank2) = false ∧ (∀ r ∈ encodeReads cfg bank2, r ∈ (withBank bank2).fWritten) ∧
      (¬∀ r ∈ encodeReads cfg bank2, r ∈ ({ State.reset with f := bank2 } : State).fWritten) ∧
      busy (withIn .strict []) = false ∧ (∃ t, execWith cfg .decode (withIn .strict []) = .next t ∧ t.st = .failed) ∧
      isEmitter .ccEnc = true ∧ ∃ t, execWith cfg .ccEnc (withBank bank2) = .next t := by
  have h := exists_of_nextIs (o := execWith cfg .decode (withIn .strict [])) (p := fun t => t.st == .failed) (by decide)
  exact ⟨⟨by decide, by decide⟩, ⟨_, rfl⟩, by decide, by decide, by decide, by decide,
    h.imp fun t h => ⟨h.1, by simpa using h.2⟩, by decide, ⟨_, rfl⟩⟩

theorem test_witness_pseudo :
    busy State.reset = false ∧ [sv1].all (wfSvcEntry cfg) = true ∧ (setTc tc1 = setTc tc1 ∨ setTc tc1 = clrTc) ∧
      (clrCc = setCc [] ∨ clrCc = clrCc) ∧ (setSvc [sv1] = setSvc [sv1] ∨ setSvc [sv1] = clrSvc) ∧
      (∀ r ∈ hdrEncReads, r ∈ (withBank bank3).fWritten) ∧ (bankFull 0).cc.length ≤ 31 ∧ [sv1].length ≤ 31 := by
  decide

theorem test_witness_single_byte :
    busy (withIn .strict p2) = false ∧ memWf (withIn .strict p2).inMem = true ∧ 15 < (withIn .strict p2).inLen ∧
      (0x5A : Byte) ≠ memRead (withIn .strict p2).inMem 15 ∧
      ∃ t, exec .ckValidate (withIn .strict p2) = .next t ∧ t.result = 1 := by
  have h := exists_of_nextIs (o := exec .ckValidate (withIn .strict p2)) (p := fun t => t.result == 1) (by decide)
  exact ⟨by decide, by decide, by decide, by decide, h.imp fun t h => ⟨h.1, by simpa using h.2⟩⟩

/-- The distances where the clauses of SeqObserveReports meet: 0, 1, 2, 32767, 32768, 65535. -/
theorem test_witness_distances :
    busy State.reset = false ∧
      [0, 1, 2, 32767, 32768, 65535].map (fun d : Nat => (seqReport (some 0) (BitVec.ofNat 16 d)).kind) =
        [.duplicate, .continuous, .gap, .gap, .reorder, .reorder] := by
  decide

theorem test_witness_bitfields :
    (0 ≤ 15 ∧ 15 < 8 * [(0xFF : Byte), 0xFE].length) ∧ (7 ≤ 7 ∧ 7 < 8 * [(0xFF : Byte)].length) ∧
      wfPack 1 [⟨7, 4, 4⟩, ⟨3, 0, 15⟩] = true ∧ wfChkrsv [0x4F] 3 0 15 = true ∧ bfExtract [0x4F] 3 0 = 15 ∧
      wfChkrsv [0x4E] 3 0 15 = true ∧ bfExtract [0x4E] 3 0 ≠ 15 ∧ busy State.reset = false ∧
      State.reset.mode = .strict ∧ busy { State.reset with mode := .lenient, st := .footer } = true ∧
      { State.reset with mode := .lenient, st := .footer }.modeSample = .strict ∧
      { State.reset with modeSample := .lenient, st := .footer }.modeSample = .lenient := by
  decide

/-- For CcDecOutcome: a strict state whose first triplet has a wrong marker, and a lenient one. -/
theorem test_witness_ccDec :
    effMode (atFrame .strict dv24 .ccData 7 pend3) = .strict ∧ inNat (atFrame .strict dv24 .ccData 7 pend3) 8 % 32 = 1 ∧
      (inNat (atFrame .strict dv24 .ccData 7 pend3) 9 / 8 != 31) = true ∧
      effMode (atFrame .lenient dv24 .ccData 7 pend3) = .lenient := by
  decide

theorem test_witness_entry_decodes :
    13 + 3 ≤ (atFrame .strict p2 .ccData 7 pend3).n ∧ 9 + 7 ≤ (atFrame .strict p2 .ccData 7 pend3).n ∧
      (atFrame .strict p2 .ccData 7 pend3).n < 14 + 3 ∧ (atFrame .strict p2 .ccData 7 pend3).n < 10 + 7 := by
  decide

theorem test_witness_readers :
    isReader (.secExpect 0x72) = true ∧ (∃ t, exec (.secExpect 0x72) (atFrame .strict p2 .ccData 7 pend3) = .next t) ∧
      ∃ t, exec (.secExpect 0x71) (atFrame .strict p2 .ccData 7 pend3) = .next t := by
  have h1 := exists_of_nextIs (o := exec (.secExpect 0x72) (atFrame .strict p2 .ccData 7 pend3)) (p := fun _ => true)
    (by decide)
  have h2 := exists_of_nextIs (o := exec (.secExpect 0x71) (atFrame .strict p2 .ccData 7 pend3)) (p := fun _ => true)
    (by decide)
  exact ⟨by decide, h1.imp fun _ h => h.1, h2.imp fun _ h => h.1⟩

theorem test_witness_section_encodes :
    memWf (withBank bank3).outMem = true ∧ (bankFull 31).ccCount ≤ 31 ∧ (bankFull 31).svcCount ≤ 31 ∧
      (svcEntries cfg (bankFull 31)).all (wfSvcEntry cfg) = true ∧ sv1.attr.length = 6 := by
  decide

/-- For the element statements: each state is in its framing state, with a head due or an entry due; the last entry
of a section (`l.length + 1 = cnt`) and one before it. -/
theorem test_witness_elements :
    (atFrame .strict p3 .header 0 pend3).st = .header ∧ (atFrame .strict p3 .timeCode 7 pend3).st = .timeCode ∧
      (atFrame .strict p3 .ccData 12 pend3).st = .ccData ∧ (atFrame .strict p3 .ccData 12 pend3).pend.cc = none ∧
      (atFrame .strict p3 .ccData 12 { pend3 with cc := some (2, []) }).pend.cc = some (2, []) ∧
      ([] : List Triplet).length < (2 : BitVec 5).toNat ∧
      [(⟨1, 0, 0x94, 0x2C⟩ : Triplet)].length < (2 : BitVec 5).toNat ∧
      (atFrame .strict p3 .serviceInfo 20 pend3).st = .serviceInfo ∧
      (atFrame .strict p3 .serviceInfo 20 pend3).pend.svc = none ∧
      (atFrame .strict p3 .serviceInfo 20 { pend3 with svc := some (1, []) }).pend.svc = some (1, []) ∧
      ([] : List SvcEntry).length < (1 : BitVec 5).toNat ∧ (atFrame .strict p3 .footer 29 pend3).st = .footer := by
  decide

/-- For WireElementsFrame, MemoryStaysCanonical, OnlyTheOwnersWrite. -/
theorem test_witness_wire_frame :
    isWire (.timecode ⟨0x71, 3, 1, 0, tc1⟩) = true ∧ memoryOk (atFrame .strict p3 .timeCode 7 pend3) = true ∧
      ∃ t, exec (.timecode ⟨0x71, 3, 1, 0, tc1⟩) (atFrame .strict p3 .timeCode 7 pend3) = .next t := by
  have h := exists_of_nextIs (o := exec (.timecode ⟨0x71, 3, 1, 0, tc1⟩) (atFrame .strict p3 .timeCode 7 pend3))
    (p := fun _ => true) (by decide)
  exact ⟨by decide, by decide, h.imp fun _ h => h.1⟩

theorem test_witness_out_of_place :
    isWire (.footer ⟨0x74, 1, 0x5B⟩) = true ∧ busy State.reset = false ∧
      encode cfg (.footer ⟨0x74, 1, 0x5B⟩) = some (.footer, [0x74, 0x00, 0x01, 0x5B]) ∧
      Slot.footer ≠ slotOf (atFrame .strict p3 .timeCode 7 pend3) ∧ (3 < 4 ∨ 8 * [(0 : Byte)].length ≤ 3) ∧
      (8 < 0 ∨ 8 * [(0 : Byte)].length ≤ 8) ∧ 2 ^ (3 - 0 + 1) ≤ 16 ∧
      (∃ f ∈ [(⟨7, 3, 32⟩ : FieldVal), ⟨2, 0, 0⟩], f.hi < f.lo ∨ 8 * 1 ≤ f.hi ∨ 2 ^ (f.hi - f.lo + 1) ≤ f.value) ∧
      ([(⟨7, 3, 31⟩ : FieldVal), ⟨1, 0, 0⟩].filter fun f => decide (f.lo ≤ 2 ∧ 2 ≤ f.hi)).length ≠ 1 ∧
      (⟨0, []⟩ : SvcEntry).attr.length ≠ 6 := by
  decide

theorem test_witness_too_many_entries :
    31 < (withBank { bank2 with ccCount := 32 }).f.ccCount ∧ 31 < (withBank { bank3 with svcCount := 32 }).f.svcCount := by
  decide

theorem test_witness_status :
    KindShown (withIn .strict p2) ∧ StatusOk (withIn .strict p2) ∧ Instr.decode ≠ .ckValidate ∧
      (∃ t, exec .decode (withIn .strict p2) = .next t) ∧
      ∃ t, step (withIn .strict p2) = .next t := by
  have h1 := exists_of_nextIs (o := exec .decode (withIn .strict p2)) (p := fun _ => true) (by decide)
  have h2 := exists_of_nextIs (o := step (withIn .strict p2)) (p := fun _ => true) (by decide)
  refine ⟨?_, ?_, by decide, h1.imp fun _ h => h.1, h2.imp fun _ h => h.1⟩
  · unfold KindShown
    decide
  · unfold StatusOk
    decide

end Sys2Proof.Tests
end

section
/-! What a step does with the command on the port, and the refusal of the reserved code. -/

namespace Sys2Proof.Machine

/-- A field at the low end of a byte is the byte cut to the field's width. -/
theorem byteField_low (b : Byte) (hi : Nat) : byteField (hi + 1) b hi 0 = b.setWidth (hi + 1) := by
  apply BitVec.eq_of_toNat_eq
  simp [byteField, bfExtract, beNat]

/-- A command code survives its passage through the port slot's one byte. -/
theorem parseAt_port_cmd (c : Cfg) (code : BitVec 3) :
    parseAt c .port [BitVec.ofNat 8 code.toNat] = parseCmd code := by
  have hcode : byteField 3 (BitVec.ofNat 8 code.toNat) 2 0 = code := by
    rw [byteField_low]
    bv_omega
  exact congrArg parseCmd hcode

/-- While no operation runs, the instruction that is due is the command on the port (spec/60_exceptions.md R214). -/
theorem fetch_ready {c : Cfg} {s : State} (h : busy s = false) : fetch c s = parseCmd s.cmd := by
  have hslot : slotOf s = .port := (slotOf_port_iff s).mpr h
  have hbytes : fetchBytes c s = [BitVec.ofNat 8 s.cmd.toNat] := by
    simp [fetchBytes, hslot]
  rw [fetch, hslot, hbytes, parseAt_port_cmd]

/-- While no operation runs, a step is the meaning of the command on the port. -/
theorem step_ready {s : State} (h : busy s = false) : step s = exec (parseCmd s.cmd) s := by
  rw [step, fetch_ready h]

theorem exec_reservedCmd7 (s : State) : exec .reservedCmd7 s = .refused .reservedCommand := rfl

theorem parseCmd_reserved : parseCmd 0b111 = .reservedCmd7 := rfl

/-- Settles O8: a step on a ready port runs the command there, and the reserved code's meaning is the refusal. -/
theorem reservedCodeIsRefused : Obligations.ReservedCodeIsRefused := by
  refine ⟨exec_reservedCmd7, parseCmd_reserved, fun s hready hcmd => ?_⟩
  calc step s = exec (parseCmd s.cmd) s := step_ready hready
    _ = exec .reservedCmd7 s := by rw [hcmd, parseCmd_reserved]
    _ = .refused .reservedCommand := exec_reservedCmd7 s

end Sys2Proof.Machine
end

section
/-! Bytes of `IN` seen through a span of the buffer, and SEC.EXPECT. -/

namespace Sys2Proof.Machine

open Sys2Proof.Safety (FailsWith)

/-- A byte inside a span of `IN` is the byte in memory. -/
theorem byteAt_spanOf_inBytes {s : State} {a k i : Nat} (hi : i < k) (hn : a + i < s.n) :
    byteAt (spanOf (inBytes s) a k) i = memRead s.inMem (a + i) := by
  simp [byteAt, spanOf, inBytes, memSpan, hi, hn]

/-- A raise of the decode side is a failure of its kind at its offset. -/
theorem failsWith_raiseDecode (c : Cfg) (s : State) (r : Raise) :
    FailsWith (.next (raiseDecode c s r)) r.kind r.off :=
  ⟨raiseDecode c s r, rfl, rfl, rfl, rfl⟩

/-- What SEC.EXPECT's checks answer, in either policy; they record no warning (spec/41_section_codec.md R110). -/
theorem runChecks_expectChecks (m : Mode) (w : List Nat) (id found : Byte) (n cur : Nat) :
    runChecks m w (expectChecks id found n cur) =
      if n < cur + 1 then .error ⟨.truncatedBuffer, n⟩
      else if found ≠ id then .error ⟨.unexpectedSectionId, cur⟩
      else .ok w := by
  by_cases hn : n < cur + 1
  · have hshort : ¬ cur + 1 ≤ n := Nat.not_le.mpr hn
    simp [expectChecks, hn, hshort]
  · have hlen : cur + 1 ≤ n := Nat.not_lt.mp hn
    by_cases hid : found = id
    · simp [expectChecks, hn, hlen, hid]
    · simp [expectChecks, hn, hlen, hid, beq_false_of_ne hid]

/-- SEC.EXPECT looks at the byte of memory at the cursor; when it passes, the state is as before. -/
theorem sectionExpect_eq (c : Cfg) (id : Byte) (s : State) :
    sectionExpect c id s =
      if s.n < s.cur + 1 then .next (raiseDecode c s ⟨.truncatedBuffer, s.n⟩)
      else if memRead s.inMem s.cur ≠ id then .next (raiseDecode c s ⟨.unexpectedSectionId, s.cur⟩)
      else .next s := by
  rw [sectionExpect, checkStep, runChecks_expectChecks]
  by_cases hn : s.n < s.cur + 1
  · simp [hn]
  · have hfound : byteAt (spanOf (inBytes s) s.cur 1) 0 = memRead s.inMem s.cur :=
      byteAt_spanOf_inBytes Nat.one_pos (Nat.not_lt.mp hn)
    by_cases hid : memRead s.inMem s.cur = id <;> simp [hn, hfound, hid]

theorem exec_secExpect (id : Byte) (s : State) : exec (.secExpect id) s = sectionExpect cfg id s := rfl

/-- Settles O40: each end of SEC.EXPECT is a raise of the named kind at the named offset, or the state as before. -/
theorem secExpectOutcome : Obligations.SecExpectOutcome := by
  intro s id
  rw [exec_secExpect, sectionExpect_eq]
  split_ifs
  · exact failsWith_raiseDecode ..
  · exact failsWith_raiseDecode ..
  · rfl

end Sys2Proof.Machine
end

section
/-! The checks of a list one by one, and HEADER in the framing state in which it is due. -/

namespace Sys2Proof.Machine

open Sys2Proof.Safety (FailsWith warnIf)

/-- A `must` check raises its own failure, or leaves the answer to the checks after it. -/
theorem runChecks_must (m : Mode) (w : List Nat) (ok : Bool) (k : ErrKind) (o : Nat) (cs : List Check) :
    runChecks m w (.must ok k o :: cs) = if ok = true then runChecks m w cs else .error ⟨k, o⟩ := rfl

/-- A reserved field raises in strict mode only; else its offset is recorded when its bits are wrong. -/
theorem runChecks_rsv (m : Mode) (w : List Nat) (ok : Bool) (o : Nat) (cs : List Check) :
    runChecks m w (.rsv ok o :: cs) =
      if m = .strict ∧ ok = false then .error ⟨.reservedBitMismatch, o⟩
      else runChecks m (w ++ warnIf (!ok) o) cs := by
  cases ok <;> cases m <;> simp [warnIf]

/-- The default frame-rate set is the codes 1 to 8. -/
theorem validFrameRates_cfg (fr : BitVec 4) :
    cfg.validFrameRates.contains fr = true ↔ ¬ (fr.toNat < 1 ∨ 8 < fr.toNat) := by
  revert fr
  decide

/-- What HDR.DEC's checks answer under the default configuration (spec/41_section_codec.md R112). -/
theorem runChecks_hdrChecks_cfg (m : Mode) (w : List Nat) (n : Nat) (e : HeaderEl) :
    runChecks m w (hdrChecks cfg n e) =
      if n < 7 then .error ⟨.truncatedBuffer, n⟩
      else if e.magic ≠ 0x9669 then .error ⟨.invalidMagic, 0⟩
      else if n < e.len.toNat then .error ⟨.truncatedBuffer, n⟩
      else if e.fr.toNat < 1 ∨ 8 < e.fr.toNat then .error ⟨.invalidFrameRate, 3⟩
      else if m = .strict ∧ e.rsv ≠ 15 then .error ⟨.reservedBitMismatch, 3⟩
      else if m = .strict ∧ e.flagsRsv ≠ 1 then .error ⟨.reservedBitMismatch, 4⟩
      else .ok (w ++ warnIf (e.rsv != 15) 3 ++ warnIf (e.flagsRsv != 1) 4) := by
  have hsize : cfg.hdrBytes = 7 := rfl
  have hmagic : cfg.magic = 0x9669 := rfl
  have hrsv : cfg.hdrRsv = 15 := rfl
  have hflags : cfg.flagsRsv = 1 := rfl
  simp only [hdrChecks, runChecks_must, runChecks_rsv, runChecks_nil, validFrameRates_cfg, hsize, hmagic, hrsv, hflags,
    decide_eq_true_eq, beq_iff_eq, beq_eq_false_iff_ne, ite_not, ← Nat.not_lt, ne_eq, bne]

/-- Where HEADER is due, it is HDR.DEC's checks under the sampled policy, then the header held. -/
theorem exec_header_due {s : State} (h : s.st = .header) (e : HeaderEl) :
    exec (.header e) s = frameStep cfg s (hdrChecks cfg s.n e) fun s => takeHeader cfg s (hdrRegsOf cfg e) :=
  whenDue_due (by simp [slotOf, h])

/-- The state after Header is that of the first section the flags call for (spec/43_packet_decode.md R153). -/
theorem nextFrame_header (fl : Flags) :
    nextFrame fl .header =
      if fl.tc = 1 then .timeCode else if fl.cc = 1 then .ccData else if fl.svc = 1 then .serviceInfo else .footer := rfl

/-- A header with the default magic is held as it was found. -/
theorem hdrRegsOf_cfg {e : HeaderEl} (h : e.magic = 0x9669) :
    hdrRegsOf cfg e = ⟨e.magic, e.len, e.fr, e.flags, e.hseq⟩ := by
  rw [h]
  rfl

/-- Settles O50: each failing check is a raise of the named kind at the named offset; when all pass, the header is held
with the magic found, since that passed its check. -/
theorem headerElementOutcome : Obligations.HeaderElementOutcome := by
  intro s e hst
  simp only [exec_header_due hst, frameStep, runChecks_hdrChecks_cfg, ← nextFrame_header]
  split_ifs with _ hmagic
  case neg =>
    simp only [hdrRegsOf_cfg (not_not.1 hmagic)]
    rfl
  all_goals exact failsWith_raiseDecode ..

end Sys2Proof.Machine
end

section
/-! What a `Done` decode reads: no byte behind its consumed span. -/

namespace Sys2Proof.Machine

open Sys2Proof.Laws.EncodedLength (legal_sizes)

/-! The answer of a passing list of checks. -/

theorem runChecks_must_ok {m : Mode} {w w' : List Nat} {ok : Bool} {k : ErrKind} {o : Nat} {cs : List Check} :
    runChecks m w (.must ok k o :: cs) = .ok w' ↔ ok = true ∧ runChecks m w cs = .ok w' := by
  cases ok <;> simp

theorem runChecks_rsv_ok {m : Mode} {w w' : List Nat} {ok : Bool} {o : Nat} {cs : List Check} :
    runChecks m w (.rsv ok o :: cs) = .ok w' ↔ ∃ w1, chk m w ok o = .ok w1 ∧ runChecks m w1 cs = .ok w' := by
  cases ok <;> cases m <;> simp

/-! A list of checks that passes for a buffer of `n` bytes passes for one of `n'`, with the same warnings, when the
element lies within `n'`. -/

theorem hdrChecks_pass_within {c : Cfg} {m : Mode} {w w' : List Nat} {n n' : Nat} {e : HeaderEl}
    (hsize : c.hdrBytes ≤ n') (hlen : e.len.toNat ≤ n') (h : runChecks m w (hdrChecks c n e) = .ok w') :
    runChecks m w (hdrChecks c n' e) = .ok w' := by
  simp only [hdrChecks, runChecks_must_ok, decide_eq_true_eq] at h ⊢
  obtain ⟨-, hmagic, -, hrest⟩ := h
  exact ⟨hsize, hmagic, hlen, hrest⟩

theorem tcChecks_pass_within {c : Cfg} {m : Mode} {w w' : List Nat} {n n' cur : Nat} {e : TimeCodeEl}
    (hc : c.legal = true) (hend : cur + c.tcBytes ≤ n') (h : runChecks m w (tcChecks c n cur e) = .ok w') :
    runChecks m w (tcChecks c n' cur e) = .ok w' := by
  have hid : cur + 1 ≤ n' := by have := legal_sizes hc; omega
  simp only [tcChecks, expectChecks, List.cons_append, List.nil_append, runChecks_must_ok, decide_eq_true_eq] at h ⊢
  obtain ⟨-, hfound, -, hrest⟩ := h
  exact ⟨hid, hfound, hend, hrest⟩

theorem countHeadChecks_pass_within {m : Mode} {w w' : List Nat} {id : Byte} {mk : BitVec 3} {most size n n' cur : Nat}
    {e : CountHeadEl} (hend : cur + 2 + size * e.count.toNat ≤ n')
    (h : runChecks m w (countHeadChecks id mk most size n cur e) = .ok w') :
    runChecks m w (countHeadChecks id mk most size n' cur e) = .ok w' := by
  have hhead : cur + 1 ≤ n' ∧ cur + 2 ≤ n' := by omega
  simp only [countHeadChecks, expectChecks, List.cons_append, List.nil_append, runChecks_must_ok, runChecks_rsv_ok,
    decide_eq_true_eq] at h ⊢
  obtain ⟨-, hfound, -, w1, hmark, hmost, -, hnil⟩ := h
  exact ⟨hhead.1, hfound, hhead.2, w1, hmark, hmost, hend, hnil⟩

theorem ftrChecks_pass_within {c : Cfg} {m : Mode} {w w' : List Nat} {n n' cur : Nat} {e : FooterEl}
    (hc : c.legal = true) (hend : cur + c.ftrBytes ≤ n') (h : runChecks m w (ftrChecks c n cur e) = .ok w') :
    runChecks m w (ftrChecks c n' cur e) = .ok w' := by
  have hid : cur + 1 ≤ n' := by have := legal_sizes hc; omega
  simp only [ftrChecks, expectChecks, List.cons_append, List.nil_append, runChecks_must_ok, decide_eq_true_eq] at h ⊢
  obtain ⟨-, hfound, -, hrest⟩ := h
  exact ⟨hid, hfound, hend, hrest⟩

/-! Buffers with the same first bytes. -/

/-- The first `k` bytes of `a` stand at the start of `b`. -/
structure SamePrefix (k : Nat) (a b : List Byte) : Prop where
  within : k ≤ b.length
  take_eq : a.take k = b.take k

/-- A buffer cut at `k` and continued in any way starts as the buffer does. -/
theorem samePrefix_take_append {k : Nat} {a : List Byte} (hk : k ≤ a.length) (rest : List Byte) :
    SamePrefix k a (a.take k ++ rest) := by
  have hlen : (a.take k).length = k := List.length_take_of_le hk
  exact ⟨by simp [hlen], (List.take_left' hlen).symm⟩

/-- A span inside the first `k` bytes is a span of those. -/
theorem spanOf_take {k i j : Nat} (h : i + j ≤ k) (l : List Byte) : spanOf (l.take k) i j = spanOf l i j := by
  simp only [spanOf, List.drop_take, List.take_take]
  rw [Nat.min_eq_left (by omega)]

section Sections

variable {c : Cfg} {m : Mode} {w w' : List Nat} {k cur : Nat} {a b : List Byte}

theorem SamePrefix.spanOf_eq (hp : SamePrefix k a b) {i j : Nat} (h : i + j ≤ k) : spanOf b i j = spanOf a i j := by
  rw [← spanOf_take h a, hp.take_eq, spanOf_take h b]

/-! Each section decodes from the prefix that holds it as it does from the whole buffer. -/

theorem hdrDecOf_samePrefix {h : HeaderRegs} (hp : SamePrefix k a b) (hsize : c.hdrBytes ≤ k)
    (hlen : h.len.toNat ≤ k) (hok : hdrDecOf c m w a = .ok (h, w')) : hdrDecOf c m w b = .ok (h, w') := by
  obtain ⟨hpass, rfl⟩ := yield_ok.1 hok
  rw [hdrDecOf, hp.spanOf_eq (by omega)]
  exact yield_ok.2 ⟨hdrChecks_pass_within (hsize.trans hp.within) (hlen.trans hp.within) hpass, rfl⟩

theorem tcDecOf_samePrefix {t : TimeCode} (hc : c.legal = true) (hp : SamePrefix k a b)
    (hend : cur + tcSize c (some t) ≤ k) (hok : tcDecOf c m w a cur = .ok (t, w')) :
    tcDecOf c m w b cur = .ok (t, w') := by
  obtain ⟨hpass, rfl⟩ := yield_ok.1 hok
  replace hend : cur + c.tcBytes ≤ k := hend
  rw [tcDecOf, hp.spanOf_eq hend]
  exact yield_ok.2 ⟨tcChecks_pass_within hc (hend.trans hp.within) hpass, rfl⟩

theorem cctDecOf_samePrefix (hp : SamePrefix k a b) (hend : cur + c.cctBytes ≤ k) :
    cctDecOf c m w b cur = cctDecOf c m w a cur := by
  rw [cctDecOf, cctDecOf, hp.spanOf_eq hend]

theorem tripletsOf_samePrefix (hp : SamePrefix k a b) :
    ∀ (cnt cur : Nat) (w : List Nat), cur + c.cctBytes * cnt ≤ k →
      tripletsOf c m b cnt cur w = tripletsOf c m a cnt cur w
  | 0, _, _, _ => rfl
  | cnt + 1, cur, w, hend => by
    rw [Nat.mul_succ] at hend
    rw [tripletsOf, tripletsOf, cctDecOf_samePrefix hp (by omega)]
    simp only [tripletsOf_samePrefix hp cnt (cur + c.cctBytes) _ (by omega)]

theorem entriesOf_samePrefix (hp : SamePrefix k a b) :
    ∀ (cnt cur : Nat), cur + c.svcEntryBytes * cnt ≤ k → entriesOf c b cnt cur = entriesOf c a cnt cur
  | 0, _, _ => rfl
  | cnt + 1, cur, hend => by
    rw [Nat.mul_succ] at hend
    rw [entriesOf, entriesOf, sveDecOf, sveDecOf, hp.spanOf_eq (by omega),
      entriesOf_samePrefix hp cnt (cur + c.svcEntryBytes) (by omega)]

/-- As many triplets as asked for. -/
theorem tripletsOf_length {buf : List Byte} :
    ∀ {cnt cur : Nat} {w w' : List Nat} {l : List Triplet},
      tripletsOf c m buf cnt cur w = .ok (l, w') → l.length = cnt
  | 0, _, _, _, _, h => by
    cases h
    rfl
  | cnt + 1, cur, w, w', l, h => by
    rw [tripletsOf] at h
    split at h
    · cases h
    · split at h
      · cases h
      · cases h
        simp [tripletsOf_length ‹_›]

theorem entriesOf_length {buf : List Byte} : ∀ {cnt cur : Nat}, (entriesOf c buf cnt cur).length = cnt
  | 0, _ => rfl
  | cnt + 1, _ => by rw [entriesOf, List.length_cons, entriesOf_length]

/-- The decode of one element answers what its checks do. -/
theorem atCur_ok {α : Type} {x : Except Raise α} {y : α} : atCur cur x = .ok y ↔ x = .ok y := by
  cases x <;> simp [atCur]

/-- A cc-data section decodes when its head passes and its triplets do. -/
theorem ccSectionOf_ok {buf : List Byte} {l : List Triplet} :
    ccSectionOf c m w buf cur = .ok (l, w') ↔
      ∃ w1, runChecks m w (ccHeadChecks c buf.length cur (parseCountHead (spanOf buf cur 2))) = .ok w1 ∧
        tripletsOf c m buf (parseCountHead (spanOf buf cur 2)).count.toNat (cur + 2) w1 = .ok (l, w') := by
  unfold ccSectionOf
  dsimp only
  constructor
  · intro hok
    split at hok
    · cases hok
    · exact ⟨_, atCur_ok.1 ‹_›, hok⟩
  · rintro ⟨w1, hpass, hl⟩
    rw [atCur_ok.2 hpass]
    exact hl

theorem ccSectionOf_samePrefix {l : List Triplet} (hp : SamePrefix k a b) (hend : cur + ccSize c (some l) ≤ k)
    (hok : ccSectionOf c m w a cur = .ok (l, w')) : ccSectionOf c m w b cur = .ok (l, w') := by
  obtain ⟨w1, hpass, hl⟩ := ccSectionOf_ok.1 hok
  simp only [ccSize, tripletsOf_length hl] at hend
  rw [ccSectionOf_ok, hp.spanOf_eq (by omega)]
  have hwithin := hp.within
  exact ⟨w1, countHeadChecks_pass_within (by omega) hpass, (tripletsOf_samePrefix hp _ _ _ (by omega)).trans hl⟩

theorem svcDecOf_samePrefix {l : List SvcEntry} (hp : SamePrefix k a b) (hend : cur + svcSize c (some l) ≤ k)
    (hok : svcDecOf c m w a cur = .ok (l, w')) : svcDecOf c m w b cur = .ok (l, w') := by
  obtain ⟨hpass, rfl⟩ := yield_ok.1 hok
  simp only [svcSize, entriesOf_length] at hend
  rw [svcDecOf, hp.spanOf_eq (by omega), entriesOf_samePrefix hp _ _ (by omega)]
  have hwithin := hp.within
  exact yield_ok.2 ⟨countHeadChecks_pass_within (by omega) hpass, rfl⟩

theorem ftrDecOf_samePrefix {e : FooterEl} (hc : c.legal = true) (hp : SamePrefix k a b) (hend : cur + c.ftrBytes ≤ k)
    (hok : ftrDecOf c m w a cur = .ok (e, w')) : ftrDecOf c m w b cur = .ok (e, w') := by
  obtain ⟨hpass, rfl⟩ := yield_ok.1 hok
  rw [ftrDecOf, hp.spanOf_eq hend]
  exact yield_ok.2 ⟨ftrChecks_pass_within hc (hend.trans hp.within) hpass, rfl⟩

/-- A section that is decoded the same where it is present is the same option. -/
theorem optional_ok_congr {α : Type} {p : Bit} {x y : Except Abort (α × List Nat)} {o : Option α}
    (hok : optional p w x = .ok (o, w')) (hxy : ∀ t, o = some t → x = .ok (t, w') → y = .ok (t, w')) :
    optional p w y = .ok (o, w') := by
  unfold optional at hok ⊢
  split_ifs at hok ⊢
  · rcases x with r | ⟨t, w1⟩
    · cases hok
    · cases hok
      rw [hxy t rfl rfl]
  · exact hok

/-! The footer and the whole packet. -/

variable {buf : List Byte} {h : HeaderRegs} {tc : Option TimeCode} {cc : Option (List Triplet)}
  {svc : Option (List SvcEntry)} {d : Decoded}

/-- State Footer ends in `Done` when the footer passes and the three comparisons do. -/
theorem footerOf_ok :
    footerOf c m w buf cur h tc cc svc = .ok d ↔
      ∃ e w1 w2, ftrDecOf c m w buf cur = .ok (e, w1) ∧
        runChecks m w1 (packetChecks cur (cur + c.ftrBytes) (sum8 (spanOf buf 0 (cur + c.ftrBytes))) h e) = .ok w2 ∧
        d = ⟨⟨h, tc, cc, svc, e.fseq, e.cksum⟩, cur + c.ftrBytes, w2⟩ := by
  unfold footerOf
  constructor
  · intro hok
    split at hok
    · cases hok
    · split at hok
      · cases hok
      · cases hok
        exact ⟨_, _, _, ‹_›, ‹_›, rfl⟩
  · rintro ⟨e, w1, w2, hftr, hpkt, rfl⟩
    rw [hftr]
    simp only [hpkt]

/-- The consumed span ends with the footer, inside the buffer, at the length the header declares. -/
theorem footerOf_consumed (hok : footerOf c m w buf cur h tc cc svc = .ok d) :
    d.consumed = cur + c.ftrBytes ∧ d.consumed = h.len.toNat ∧ d.consumed ≤ buf.length := by
  obtain ⟨e, w1, w2, hftr, hpkt, rfl⟩ := footerOf_ok.1 hok
  obtain ⟨hpass, -⟩ := yield_ok.1 hftr
  have hin : cur + c.ftrBytes ≤ buf.length := by
    simpa using runChecks_must_of_ok hpass (List.mem_append_right _ (List.mem_singleton_self _))
  have hlen : (cur + c.ftrBytes == h.len.toNat) = true :=
    runChecks_must_of_ok hpkt (List.mem_cons_of_mem _ (List.mem_cons_of_mem _ (List.mem_singleton_self _)))
  exact ⟨rfl, beq_iff_eq.1 hlen, hin⟩

theorem footerOf_samePrefix (hc : c.legal = true) (hp : SamePrefix d.consumed a b)
    (hok : footerOf c m w a cur h tc cc svc = .ok d) : footerOf c m w b cur h tc cc svc = .ok d := by
  obtain ⟨hcons, -, -⟩ := footerOf_consumed hok
  rw [hcons] at hp
  obtain ⟨e, w1, w2, hftr, hpkt, hd⟩ := footerOf_ok.1 hok
  rw [footerOf_ok, hp.spanOf_eq (by omega)]
  exact ⟨e, w1, w2, ftrDecOf_samePrefix hc hp le_rfl hftr, hpkt, hd⟩

/-- A decode ends in `Done` when each of its states passes, from the cursor and with the warnings of the one before
(spec/43_packet_decode.md R152 to R160). -/
theorem decodePacket_ok :
    decodePacket c m buf = .ok d ↔
      ∃ h w0 tc w1 cc w2 svc w3, hdrDecOf c m [] buf = .ok (h, w0) ∧
        optional h.flags.tc w0 (atCur c.hdrBytes (tcDecOf c m w0 buf c.hdrBytes)) = .ok (tc, w1) ∧
        optional h.flags.cc w1 (ccSectionOf c m w1 buf (c.hdrBytes + tcSize c tc)) = .ok (cc, w2) ∧
        optional h.flags.svc w2 (atCur (c.hdrBytes + tcSize c tc + ccSize c cc)
          (svcDecOf c m w2 buf (c.hdrBytes + tcSize c tc + ccSize c cc))) = .ok (svc, w3) ∧
        footerOf c m w3 buf (c.hdrBytes + tcSize c tc + ccSize c cc + svcSize c svc) h tc cc svc = .ok d := by
  unfold decodePacket
  dsimp only
  constructor
  · intro hok
    split at hok
    · cases hok
    · rename_i h w0 hhdr
      split at hok
      · cases hok
      · rename_i tc w1 htc
        split at hok
        · cases hok
        · rename_i cc w2 hcc
          split at hok
          · cases hok
          · rename_i svc w3 hsvc
            exact ⟨h, w0, tc, w1, cc, w2, svc, w3, atCur_ok.1 hhdr, htc, hcc, hsvc, atCur_ok.1 hok⟩
  · rintro ⟨h, w0, tc, w1, cc, w2, svc, w3, hhdr, htc, hcc, hsvc, hftr⟩
    simp only [atCur_ok.2 hhdr, htc, hcc, hsvc, atCur_ok.2 hftr]

end Sections

/-- Settles O13: the sections end one after another within the consumed span, which the header declares and the buffer
holds, so each decodes from the prefix as before. -/
theorem trailingBytesAreIgnored : Obligations.TrailingBytesAreIgnored := by
  intro c m buf rest d hc hok
  obtain ⟨h, w0, tc, w1, cc, w2, svc, w3, hhdr, htc, hcc, hsvc, hftr⟩ := decodePacket_ok.1 hok
  obtain ⟨hcons, hlen, hin⟩ := footerOf_consumed hftr
  have hp : SamePrefix d.consumed buf (buf.take d.consumed ++ rest) := samePrefix_take_append hin rest
  refine decodePacket_ok.2 ⟨h, w0, tc, w1, cc, w2, svc, w3, ?header, ?timeCode, ?ccData, ?serviceInfo, ?footer⟩
  case header => exact hdrDecOf_samePrefix hp (by omega) hlen.ge hhdr
  case timeCode =>
    refine optional_ok_congr htc fun t ht hx => atCur_ok.2 ?_
    exact tcDecOf_samePrefix hc hp (by rw [← ht]; omega) (atCur_ok.1 hx)
  case ccData =>
    refine optional_ok_congr hcc fun l hl hx => ?_
    exact ccSectionOf_samePrefix hp (by rw [← hl]; omega) hx
  case serviceInfo =>
    refine optional_ok_congr hsvc fun l hl hx => atCur_ok.2 ?_
    exact svcDecOf_samePrefix hp (by rw [← hl]; omega) (atCur_ok.1 hx)
  case footer => exact footerOf_samePrefix hc hp hftr

end Sys2Proof.Machine
end

section
/-! The checks of ENCODE on the record in the bank, and what an ENCODE leaves unchanged. -/

namespace Sys2Proof.Machine

open Sys2Proof.Safety (SameBank SameHostSide SameResults)

/-! A member of the record in the bank is there when its option tag is set (spec/10_state.md R29). -/

section Gated

variable {α : Type} (c : Cfg) (v : Bit)

theorem tagOf_gated (a : α) : tagOf (if v = 1 then some a else none) = v := by
  split_ifs with h
  · exact h.symm
  · rw [tagOf_none]
    bv_omega

/-- A member's count is too large only where the member is there. -/
theorem countFits_gated (l : List α) (most : Nat) :
    countFits (if v = 1 then some l else none) most = true ↔ ¬ (v = 1 ∧ most < l.length) := by
  split_ifs with h
  · simp [countFits, h]
  · exact iff_of_true rfl fun hover => h hover.1

theorem tcSize_gated (t : TimeCode) :
    tcSize c (if v = 1 then some t else none) = if v = 1 then c.tcBytes else 0 := by
  split_ifs <;> rfl

theorem ccSize_gated (l : List Triplet) :
    ccSize c (if v = 1 then some l else none) = if v = 1 then 2 + c.cctBytes * l.length else 0 := by
  split_ifs <;> rfl

theorem svcSize_gated (l : List SvcEntry) :
    svcSize c (if v = 1 then some l else none) = if v = 1 then 2 + c.svcEntryBytes * l.length else 0 := by
  split_ifs <;> rfl

end Gated

/-! The four conditions ENCODE checks, on the registers of the bank. -/

theorem flagsConsistent_bankPkt (c : Cfg) (b : Bank) :
    flagsConsistent (bankPkt c b) = true ↔
      b.hdr.flags.tc = b.tcValid ∧ b.hdr.flags.cc = b.ccValid ∧ b.hdr.flags.svc = b.svcValid := by
  simp only [flagsConsistent, bankPkt, tagOf_gated, Bool.and_eq_true, beq_iff_eq, and_assoc]

theorem countFits_bankPkt_cc (c : Cfg) (b : Bank) (most : Nat) :
    countFits (bankPkt c b).cc most = true ↔ ¬ (b.ccValid = 1 ∧ most < b.ccCount) := by
  rw [bankPkt, countFits_gated, ccEntries_length]

theorem countFits_bankPkt_svc (c : Cfg) (b : Bank) (most : Nat) :
    countFits (bankPkt c b).svc most = true ↔ ¬ (b.svcValid = 1 ∧ most < b.svcCount) := by
  rw [bankPkt, countFits_gated, svcEntries_length]

theorem pktLength_bankPkt (c : Cfg) (b : Bank) :
    pktLength c (bankPkt c b) =
      c.hdrBytes + (if b.tcValid = 1 then c.tcBytes else 0) +
        (if b.ccValid = 1 then 2 + c.cctBytes * b.ccCount else 0) +
        (if b.svcValid = 1 then 2 + c.svcEntryBytes * b.svcCount else 0) + c.ftrBytes := by
  simp only [pktLength, bankPkt, tcSize_gated, ccSize_gated, svcSize_gated, ccEntries_length, svcEntries_length]

/-- What ENCODE's checks answer on the record in the bank under the default configuration; each raises at offset 0
(spec/44_packet_encode.md R171 to R175). -/
theorem runChecks_encodeChecks_bankPkt_cfg (m : Mode) (w : List Nat) (b : Bank) :
    runChecks m w (encodeChecks cfg (bankPkt cfg b)) =
      if ¬ (b.hdr.flags.tc = b.tcValid ∧ b.hdr.flags.cc = b.ccValid ∧ b.hdr.flags.svc = b.svcValid) then
        .error ⟨.inconsistentFlags, 0⟩
      else if ¬ (1 ≤ b.hdr.fr.toNat ∧ b.hdr.fr.toNat ≤ 8) then .error ⟨.invalidFrameRate, 0⟩
      else if (b.ccValid = 1 ∧ 31 < b.ccCount) ∨ (b.svcValid = 1 ∧ 31 < b.svcCount) then .error ⟨.countOverflow, 0⟩
      else if 255 < 7 + (if b.tcValid = 1 then 5 else 0) + (if b.ccValid = 1 then 2 + 3 * b.ccCount else 0) +
          (if b.svcValid = 1 then 2 + 7 * b.svcCount else 0) + 4 then .error ⟨.countOverflow, 0⟩
      else .ok w := by
  have hhdr : (bankPkt cfg b).hdr = b.hdr := rfl
  have hmost : cfg.ccCountMax = 31 ∧ cfg.svcCountMax = 31 ∧ cfg.lenMax = 255 := ⟨rfl, rfl, rfl⟩
  have hsizes : cfg.hdrBytes = 7 ∧ cfg.tcBytes = 5 ∧ cfg.cctBytes = 3 ∧ cfg.svcEntryBytes = 7 ∧ cfg.ftrBytes = 4 :=
    ⟨rfl, rfl, rfl, rfl, rfl⟩
  simp only [encodeChecks, runChecks_must, runChecks_nil, flagsConsistent_bankPkt, hhdr, validFrameRates_cfg,
    countFits_bankPkt_cc, countFits_bankPkt_svc, pktLength_bankPkt, hmost, hsizes, decide_eq_true_eq, ite_not,
    ite_or, not_or, ← Nat.not_lt]

/-! The operation. -/

/-- While no operation runs, ENCODE is the start and then its end. -/
theorem exec_encode_ready {s : State} (h : busy s = false) :
    exec .encode s = .next (endEncode cfg (startEncode s) (encodePacket cfg (bankPkt cfg s.f))) :=
  whenReady_ready h

/-- An ENCODE, whatever it answers, leaves the bank, the warnings, the host's side and the results as they were
(spec/44_packet_encode.md R170). -/
theorem endEncode_startEncode_frame (c : Cfg) (s : State) (x : Except Raise (List Byte)) :
    SameBank s (endEncode c (startEncode s) x) ∧ (endEncode c (startEncode s) x).warn = s.warn ∧
      SameHostSide s (endEncode c (startEncode s) x) ∧ SameResults s (endEncode c (startEncode s) x) := by
  rcases endEncode_cases c (startEncode s) x with ⟨r, -, hend⟩ | ⟨bytes, -, hend⟩ <;>
    simp [hend, SameBank, SameHostSide, SameResults]

/-- Settles O23: the frame is that of any ENCODE; the kind is that of the first check that fails on the record in the
bank. -/
theorem encodeFailsInCheckOrder : Obligations.EncodeFailsInCheckOrder := by
  intro s hready
  obtain ⟨hbank, hwarn, hhost, hresults⟩ :=
    endEncode_startEncode_frame cfg s (encodePacket cfg (bankPkt cfg s.f))
  refine ⟨_, exec_encode_ready hready, hbank, ?offset, hwarn, hhost, hresults, ?kind⟩
  case offset =>
    rw [encodePacket, runChecks_encodeChecks_bankPkt_cfg]
    split_ifs <;> rfl
  case kind =>
    rw [encodePacket, runChecks_encodeChecks_bankPkt_cfg]
    split_ifs <;> exact ⟨rfl, rfl⟩

end Sys2Proof.Machine
end

section
/-! The sequence tracker: the report by the forward distance, and the two commands on a ready port. -/

namespace Sys2Proof.Machine

/-- The forward distance in numbers: the subtraction on the circle of 65536 values (spec/45_sequence_tracker.md R192). -/
theorem seqDistance_eq (l v : Half) : seqDistance l v = (v.toNat + 65536 - l.toNat) % 65536 := by
  unfold seqDistance
  bv_omega

/-! The report, one equation per case of R191. -/

@[simp] theorem seqReport_none (v : Half) : seqReport none v = ⟨.continuous, 0⟩ := rfl

section Reports

variable {l v : Half}

theorem seqReport_continuous (h : seqDistance l v = 1) : seqReport (some l) v = ⟨.continuous, 0⟩ := by
  simp [seqReport, h]

theorem seqReport_duplicate (h : seqDistance l v = 0) : seqReport (some l) v = ⟨.duplicate, 0⟩ := by
  simp [seqReport, h]

theorem seqReport_gap (hlow : 2 ≤ seqDistance l v) (hhigh : seqDistance l v ≤ 32767) :
    seqReport (some l) v = ⟨.gap, BitVec.ofNat 15 (seqDistance l v - 1)⟩ := by
  have hmoved : seqDistance l v ≠ 1 ∧ seqDistance l v ≠ 0 := by omega
  simp [seqReport, hmoved, hhigh]

theorem seqReport_reorder (h : 32768 ≤ seqDistance l v) : seqReport (some l) v = ⟨.reorder, 0⟩ := by
  have hmoved : seqDistance l v ≠ 1 ∧ seqDistance l v ≠ 0 := by omega
  have hbehind : ¬ seqDistance l v ≤ 32767 := by omega
  simp [seqReport, hmoved, hbehind]

end Reports

/-- The number of missing packets of a gap fits the 15 bits of `REPORT.N`. -/
theorem toNat_missing {d : Nat} (h : d ≤ 32767) : (BitVec.ofNat 15 (d - 1)).toNat = d - 1 := by
  rw [BitVec.toNat_ofNat, Nat.mod_eq_of_lt (by omega)]

theorem parseCmd_seqObserve : parseCmd 0b101 = .seqObserve := rfl

theorem parseCmd_seqReset : parseCmd 0b110 = .seqReset := rfl

/-- While no operation runs, SEQ_OBSERVE is the observation of the operand. -/
theorem exec_seqObserve_ready {s : State} (h : busy s = false) : exec .seqObserve s = .next (observe s) :=
  whenReady_ready h

/-- While no operation runs, SEQ_RESET leaves a fresh tracker. -/
theorem exec_seqReset_ready {s : State} (h : busy s = false) : exec .seqReset s = .next (forgetLast s) :=
  whenReady_ready h

/-- Settles O35: the state after is `observe`'s, and the distance selects the case of the report. -/
theorem seqObserveReports : Obligations.SeqObserveReports := by
  refine ⟨parseCmd_seqObserve, fun s hready => ⟨seqReport s.lastSeq s.operand, exec_seqObserve_ready hready, ?_⟩⟩
  rcases s.lastSeq with _ | l
  case none => exact ⟨rfl, rfl⟩
  case some =>
    simp only [← seqDistance_eq]
    refine ⟨fun h => ?continuous, fun h => ?duplicate, fun hlow hhigh => ?gap, fun h => ?reorder⟩
    case continuous => simp [seqReport_continuous h]
    case duplicate => simp [seqReport_duplicate h]
    case gap => simp only [seqReport_gap hlow hhigh, toNat_missing hhigh, and_self]
    case reorder => simp [seqReport_reorder h]

/-- Settles O36: a tracker without a last value, after the command as after reset, answers the next observation with
the baseline's report. -/
theorem seqResetForgetsTheLast : Obligations.SeqResetForgetsTheLast := by
  refine ⟨parseCmd_seqReset, rfl, fun s v hready => ⟨exec_seqReset_ready hready, ?_⟩⟩
  have hfresh : busy { s with lastSeq := none, operand := v } = false := hready
  exact ⟨_, exec_seqObserve_ready hfresh, by simp, by simp⟩

end Sys2Proof.Machine
end

section
/-! NOP: accepted on a ready port, and no register or buffer changes. -/

namespace Sys2Proof.Machine

theorem exec_nop (s : State) : exec .nop s = .next s := rfl

theorem parseCmd_nop : parseCmd 0b000 = .nop := rfl

/-- Settles O7: a step on a ready port runs the command there, and NOP's meaning is the state as before. -/
theorem nopChangesNothing : Obligations.NopChangesNothing := by
  refine ⟨exec_nop, parseCmd_nop, fun s hready hcmd => ?_⟩
  calc step s = exec (parseCmd s.cmd) s := step_ready hready
    _ = exec .nop s := by rw [hcmd, parseCmd_nop]
    _ = .next s := exec_nop s

end Sys2Proof.Machine
end

section
/-! What an instruction can do, said once: the wire element due, the commands, the readers and the emitters. -/

namespace Sys2Proof.Machine

open Sys2Proof.Safety (isWire isCommand isReader isEmitter)

/-! The kinds a check can raise. -/

/-- A kind that a decode-side operation raises (spec/60_exceptions.md R204). -/
def isDecodeKind (k : ErrKind) : Bool :=
  k != .none && k != .inconsistentFlags

/-- A check raises a decode-side kind. -/
def raisesDecodeKind : Check → Bool
  | .must _ k _ => isDecodeKind k
  | .rsv _ _ => true

/-- A list of checks raises the failure of one of them, which does not hold. -/
theorem runChecks_error {m : Mode} {w : List Nat} {cs : List Check} {r : Raise} (h : runChecks m w cs = .error r) :
    Check.must false r.kind r.off ∈ cs ∨ r.kind = .reservedBitMismatch ∧ Check.rsv false r.off ∈ cs := by
  induction cs generalizing w with
  | nil => cases h
  | cons ch cs ih =>
    rcases ch with ⟨ok, k, o⟩ | ⟨ok, o⟩
    case must =>
      rw [runChecks_must] at h
      split_ifs at h with hok
      · exact (ih h).imp (List.mem_cons_of_mem _) fun ⟨hk, hm⟩ => ⟨hk, List.mem_cons_of_mem _ hm⟩
      · cases h
        simp [hok]
    case rsv =>
      rw [runChecks_rsv] at h
      split_ifs at h with hok
      · cases h
        simp [hok]
      · exact (ih h).imp (List.mem_cons_of_mem _) fun ⟨hk, hm⟩ => ⟨hk, List.mem_cons_of_mem _ hm⟩

/-- Checks of decode-side kinds raise a decode-side kind. -/
theorem isDecodeKind_of_runChecks {m : Mode} {w : List Nat} {cs : List Check} {r : Raise}
    (hcs : cs.all raisesDecodeKind = true) (h : runChecks m w cs = .error r) : isDecodeKind r.kind = true := by
  rw [List.all_eq_true] at hcs
  rcases runChecks_error h with hm | ⟨hk, -⟩
  · exact hcs _ hm
  · rw [hk]
    rfl

/-! The element due. -/

/-- The checks of the wire element that is due, whatever its bytes hold. -/
inductive DueChecks (c : Cfg) (s : State) : List Check → Prop
  | header (hst : s.st = .header) (e : HeaderEl) : DueChecks c s (hdrChecks c s.n e)
  | timeCode (hst : s.st = .timeCode) (e : TimeCodeEl) : DueChecks c s (tcChecks c s.n s.cur e)
  | ccHead (hst : s.st = .ccData) (hnone : s.pend.cc = none) (e : CountHeadEl) :
      DueChecks c s (ccHeadChecks c s.n s.cur e)
  | ccTriplet (hst : s.st = .ccData) (e : TripletEl) : DueChecks c s (tripletChecks c s.cur e)
  | svcHead (hst : s.st = .serviceInfo) (hnone : s.pend.svc = none) (e : CountHeadEl) :
      DueChecks c s (svcHeadChecks c s.n s.cur e)
  | footer (hst : s.st = .footer) (e : FooterEl) :
      DueChecks c s (ftrChecks c s.n s.cur e ++
        packetChecks s.cur (s.cur + c.ftrBytes) (sum8 (spanOf (inBytes s) 0 (s.cur + c.ftrBytes))) s.pend.hdr e)

theorem DueChecks.raisesDecodeKind {c : Cfg} {s : State} {cs : List Check} (h : DueChecks c s cs) :
    cs.all raisesDecodeKind = true := by
  cases h <;> rfl

/-- What a wire element does where it is due: it raises, or it is held and the framer goes on. -/
inductive WireStep (c : Cfg) (s : State) : State → Prop
  | raised {cs : List Check} {r : Raise} (hdue : DueChecks c s cs)
      (hr : runChecks s.modeSample s.warn cs = .error r) : WireStep c s (raiseDecode c s r)
  | header (hst : s.st = .header) (w : List Nat) (h : HeaderRegs) :
      WireStep c s (takeHeader c { s with warn := w } h)
  | timeCode (hst : s.st = .timeCode) (w : List Nat) (t : TimeCode) :
      WireStep c s (takeTimeCode c { s with warn := w } t)
  | ccHead (hst : s.st = .ccData) (hnone : s.pend.cc = none) (w : List Nat) (cnt : BitVec 5) :
      WireStep c s (takeTriplets { s with warn := w } (s.cur + 2) cnt [])
  | ccTriplet (hst : s.st = .ccData) {cnt : BitVec 5} {l : List Triplet} (hsome : s.pend.cc = some (cnt, l))
      (w : List Nat) (t : Triplet) :
      WireStep c s (takeTriplets { s with warn := w } (s.cur + c.cctBytes) cnt (l ++ [t]))
  | svcHead (hst : s.st = .serviceInfo) (hnone : s.pend.svc = none) (w : List Nat) (cnt : BitVec 5) :
      WireStep c s (takeEntries { s with warn := w } (s.cur + 2) cnt [])
  | svcEntry (hst : s.st = .serviceInfo) {cnt : BitVec 5} {l : List SvcEntry} (hsome : s.pend.svc = some (cnt, l))
      (w : List Nat) (e : SvcEntry) :
      WireStep c s (takeEntries { s with warn := w } (s.cur + c.svcEntryBytes) cnt (l ++ [e]))
  | footer (hst : s.st = .footer) (hlen : s.cur + c.ftrBytes = s.pend.hdr.len.toNat) (w : List Nat) (p : Pkt) (sum : Byte) :
      WireStep c s (finishDecode c { s with warn := w } p (s.cur + c.ftrBytes) sum w)

/-- A slot is due in its framing state, a head where none has been read and an entry after its head. -/
theorem slotOf_eq_iff (s : State) :
    (slotOf s = .header ↔ s.st = .header) ∧ (slotOf s = .timeCode ↔ s.st = .timeCode) ∧
      (slotOf s = .ccHead ↔ s.st = .ccData ∧ s.pend.cc = none) ∧
      (slotOf s = .ccTriplet ↔ s.st = .ccData ∧ ∃ p, s.pend.cc = some p) ∧
      (slotOf s = .svcHead ↔ s.st = .serviceInfo ∧ s.pend.svc = none) ∧
      (slotOf s = .svcEntry ↔ s.st = .serviceInfo ∧ ∃ p, s.pend.svc = some p) ∧
      (slotOf s = .footer ↔ s.st = .footer) := by
  unfold slotOf
  cases s.st <;> cases s.pend.cc <;> cases s.pend.svc <;> simp

/-- An element given where it is due raises by its checks, or does what it does when they pass. -/
theorem whenDue_frameStep {c : Cfg} {s t : State} {slot : Slot} {cs : List Check} {k : State → State}
    (h : whenDue s slot (frameStep c s cs k) = .next t) :
    slotOf s = slot ∧ ((∃ r, runChecks s.modeSample s.warn cs = .error r ∧ t = raiseDecode c s r) ∨
      ∃ w, runChecks s.modeSample s.warn cs = .ok w ∧ t = k { s with warn := w }) := by
  by_cases hslot : slotOf s = slot
  · rw [whenDue_due hslot] at h
    refine ⟨hslot, ?_⟩
    rcases frameStep_cases c s cs k with ⟨r, hr, heq⟩ | ⟨w, hw, heq⟩ <;> cases heq.symm.trans h
    · exact .inl ⟨r, hr, rfl⟩
    · exact .inr ⟨w, hw, rfl⟩
  · cases (whenDue_not hslot).symm.trans h

/-- A wire element answers a next state only where it is due. -/
theorem wireStep_of_exec {c : Cfg} {i : Instr} {s t : State} (hi : isWire i = true) (h : execWith c i s = .next t) :
    WireStep c s t := by
  obtain ⟨hheader, htime, hcch, hcct, hsvch, hsvce, hfooter⟩ := slotOf_eq_iff s
  cases i
  case header e =>
    obtain ⟨hslot, ⟨r, hr, rfl⟩ | ⟨w, hw, rfl⟩⟩ := whenDue_frameStep h
    · exact .raised (.header (hheader.1 hslot) e) hr
    · exact .header (hheader.1 hslot) w _
  case timecode e =>
    obtain ⟨hslot, ⟨r, hr, rfl⟩ | ⟨w, hw, rfl⟩⟩ := whenDue_frameStep h
    · exact .raised (.timeCode (htime.1 hslot) e) hr
    · exact .timeCode (htime.1 hslot) w _
  case ccdataHead e =>
    obtain ⟨hslot, ⟨r, hr, rfl⟩ | ⟨w, hw, rfl⟩⟩ := whenDue_frameStep h <;> obtain ⟨hst, hnone⟩ := hcch.1 hslot
    · exact .raised (.ccHead hst hnone e) hr
    · exact .ccHead hst hnone w _
  case ccTriplet e =>
    obtain ⟨hslot, ⟨r, hr, rfl⟩ | ⟨w, hw, rfl⟩⟩ := whenDue_frameStep h <;> obtain ⟨hst, ⟨cnt, l⟩, hsome⟩ := hcct.1 hslot
    · exact .raised (.ccTriplet hst e) hr
    · simpa [hsome] using WireStep.ccTriplet (c := c) hst hsome w e.t
  case svcinfoHead e =>
    obtain ⟨hslot, ⟨r, hr, rfl⟩ | ⟨w, hw, rfl⟩⟩ := whenDue_frameStep h <;> obtain ⟨hst, hnone⟩ := hsvch.1 hslot
    · exact .raised (.svcHead hst hnone e) hr
    · exact .svcHead hst hnone w _
  case svcEntry e =>
    obtain ⟨hslot, ⟨r, hr, rfl⟩ | ⟨w, hw, rfl⟩⟩ := whenDue_frameStep h <;> obtain ⟨hst, ⟨cnt, l⟩, hsome⟩ := hsvce.1 hslot
    · cases hr
    · simpa [hsome] using WireStep.svcEntry (c := c) hst hsome w e
  case footer e =>
    obtain ⟨hslot, ⟨r, hr, rfl⟩ | ⟨w, hw, rfl⟩⟩ := whenDue_frameStep h
    · exact .raised (.footer (hfooter.1 hslot) e) hr
    · have hlen := runChecks_must_of_ok hw (List.mem_append_right _
        (List.mem_cons_of_mem _ (List.mem_cons_of_mem _ (List.mem_singleton_self _))))
      exact .footer (hfooter.1 hslot) (beq_iff_eq.1 hlen) w _ _
  all_goals cases hi

/-! One step of a running decode. -/

/-- While a decode runs, the instruction is parsed from the bytes of `IN` at the element that is due. -/
theorem fetch_element {c : Cfg} {s : State} {slot : Slot} (h : slotOf s = slot) (hslot : slot ≠ .port) :
    fetch c s = parseAt c slot (spanOf (inBytes s) (elementAddr s) (slotLen c slot)) := by
  subst h
  unfold fetch fetchBytes
  split
  · exact absurd ‹_› hslot
  · rfl

section Due

variable {c : Cfg} {s : State}

theorem stepWith_header (h : s.st = .header) :
    stepWith c s = frameStep c s (hdrChecks c s.n (parseHeader (spanOf (inBytes s) 0 c.hdrBytes)))
      fun t => takeHeader c t (hdrRegsOf c (parseHeader (spanOf (inBytes s) 0 c.hdrBytes))) := by
  have hslot : slotOf s = .header := by simp [slotOf, h]
  rw [stepWith, fetch_element hslot (by decide), elementAddr, hslot]
  exact whenDue_due hslot

theorem stepWith_timeCode (h : s.st = .timeCode) :
    stepWith c s = frameStep c s (tcChecks c s.n s.cur (parseTimeCode (spanOf (inBytes s) s.cur c.tcBytes)))
      fun t => takeTimeCode c t (parseTimeCode (spanOf (inBytes s) s.cur c.tcBytes)).tc := by
  have hslot : slotOf s = .timeCode := by simp [slotOf, h]
  rw [stepWith, fetch_element hslot (by decide), elementAddr, hslot]
  exact whenDue_due hslot

theorem stepWith_ccHead (h : s.st = .ccData) (hnone : s.pend.cc = none) :
    stepWith c s = frameStep c s (ccHeadChecks c s.n s.cur (parseCountHead (spanOf (inBytes s) s.cur 2)))
      fun t => takeTriplets t (t.cur + 2) (parseCountHead (spanOf (inBytes s) s.cur 2)).count [] := by
  have hslot : slotOf s = .ccHead := by simp [slotOf, h, hnone]
  rw [stepWith, fetch_element hslot (by decide), elementAddr, hslot]
  exact whenDue_due hslot

theorem stepWith_ccTriplet {cnt : BitVec 5} {l : List Triplet} (h : s.st = .ccData)
    (hsome : s.pend.cc = some (cnt, l)) :
    stepWith c s = frameStep c s (tripletChecks c s.cur (parseTriplet (spanOf (inBytes s) s.cur c.cctBytes)))
      fun t => takeTriplets t (t.cur + c.cctBytes) ((t.pend.cc.map Prod.fst).getD 0)
        ((t.pend.cc.map Prod.snd).getD [] ++ [(parseTriplet (spanOf (inBytes s) s.cur c.cctBytes)).t]) := by
  have hslot : slotOf s = .ccTriplet := by simp [slotOf, h, hsome]
  rw [stepWith, fetch_element hslot (by decide), elementAddr, hslot]
  exact whenDue_due hslot

theorem stepWith_svcHead (h : s.st = .serviceInfo) (hnone : s.pend.svc = none) :
    stepWith c s = frameStep c s (svcHeadChecks c s.n s.cur (parseCountHead (spanOf (inBytes s) s.cur 2)))
      fun t => takeEntries t (t.cur + 2) (parseCountHead (spanOf (inBytes s) s.cur 2)).count [] := by
  have hslot : slotOf s = .svcHead := by simp [slotOf, h, hnone]
  rw [stepWith, fetch_element hslot (by decide), elementAddr, hslot]
  exact whenDue_due hslot

theorem stepWith_svcEntry {cnt : BitVec 5} {l : List SvcEntry} (h : s.st = .serviceInfo)
    (hsome : s.pend.svc = some (cnt, l)) :
    stepWith c s = .next (takeEntries s (s.cur + c.svcEntryBytes) cnt (l ++ [sveDecOf c (inBytes s) s.cur])) := by
  have hslot : slotOf s = .svcEntry := by simp [slotOf, h, hsome]
  rw [stepWith, fetch_element hslot (by decide), elementAddr, hslot]
  refine (whenDue_due hslot).trans ?_
  simp [frameStep, hsome, sveDecOf, slotLen]

theorem stepWith_footer (h : s.st = .footer) :
    stepWith c s = frameStep c s (ftrChecks c s.n s.cur (parseFooter (spanOf (inBytes s) s.cur c.ftrBytes)) ++
        packetChecks s.cur (s.cur + c.ftrBytes) (sum8 (spanOf (inBytes s) 0 (s.cur + c.ftrBytes))) s.pend.hdr
          (parseFooter (spanOf (inBytes s) s.cur c.ftrBytes)))
      fun t => finishDecode c t (pendPkt t.pend (parseFooter (spanOf (inBytes s) s.cur c.ftrBytes)))
        (s.cur + c.ftrBytes) (sum8 (spanOf (inBytes s) 0 (s.cur + c.ftrBytes))) t.warn := by
  have hslot : slotOf s = .footer := by simp [slotOf, h]
  rw [stepWith, fetch_element hslot (by decide), elementAddr, hslot]
  exact whenDue_due hslot

end Due

/-- An element given where it is due answers a next state. -/
theorem whenDue_frameStep_next {c : Cfg} {s : State} {slot : Slot} (h : slotOf s = slot) (cs : List Check)
    (k : State → State) : ∃ t, whenDue s slot (frameStep c s cs k) = .next t := by
  rw [whenDue_due h]
  rcases frameStep_cases c s cs k with ⟨r, -, heq⟩ | ⟨w, -, heq⟩ <;> exact ⟨_, heq⟩

/-- While a decode runs, a step is the wire element that is due, and it answers a next state. -/
theorem stepWith_busy (c : Cfg) {s : State} (h : busy s = true) : ∃ t, stepWith c s = .next t ∧ WireStep c s t := by
  have hport : slotOf s ≠ .port := by
    rw [Ne, slotOf_port_iff, h]
    decide
  suffices hnext : isWire (fetch c s) = true ∧ ∃ t, stepWith c s = .next t by
    obtain ⟨hwire, t, ht⟩ := hnext
    exact ⟨t, ht, wireStep_of_exec hwire ht⟩
  rw [stepWith, fetch_element rfl hport]
  rcases hslot : slotOf s
  case port => exact absurd hslot hport
  all_goals exact ⟨rfl, whenDue_frameStep_next hslot _ _⟩

end Sys2Proof.Machine
end

section
/-! What any instruction can do, said once: the wire elements, the commands, the readers and the emitters. -/

namespace Sys2Proof.Machine

open Sys2Proof.Safety (isWire isCommand isReader isEmitter)

/-! The kinds each section decode raises. -/

section Kinds

variable {c : Cfg} {m : Mode} {w : List Nat} {r : Raise} {buf : List Byte} {cur : Nat}

theorem isDecodeKind_of_yield {α : Type} {cs : List Check} {a : α} (hcs : cs.all raisesDecodeKind = true)
    (h : yield m w cs a = .error r) : isDecodeKind r.kind = true :=
  isDecodeKind_of_runChecks hcs (yield_error.1 h)

/-- The decode of one element fails as its checks do, with the cursor at its start. -/
theorem atCur_error {α : Type} {x : Except Raise α} {a : Abort} :
    atCur cur x = .error a ↔ x = .error a.raised ∧ a.cur = cur := by
  obtain ⟨r, k⟩ := a
  rcases x with e | y
  · simp only [atCur, Except.error.injEq, Abort.mk.injEq, eq_comm (a := k)]
  · simp [atCur]

theorem isDecodeKind_of_tripletsOf {a : Abort} :
    ∀ {cnt cur : Nat} {w : List Nat}, tripletsOf c m buf cnt cur w = .error a → isDecodeKind a.raised.kind = true
  | 0, _, _, h => by cases h
  | cnt + 1, cur, w, h => by
    rw [tripletsOf] at h
    split at h
    · cases h
      exact isDecodeKind_of_yield rfl (atCur_error.1 ‹_›).1
    · split at h
      · cases h
        exact isDecodeKind_of_tripletsOf ‹_›
      · cases h

theorem isDecodeKind_of_ccSectionOf {a : Abort} (h : ccSectionOf c m w buf cur = .error a) :
    isDecodeKind a.raised.kind = true := by
  unfold ccSectionOf at h
  dsimp only at h
  split at h
  · cases h
    exact isDecodeKind_of_runChecks rfl (atCur_error.1 ‹_›).1
  · exact isDecodeKind_of_tripletsOf h

theorem isDecodeKind_of_ccDecOf (h : ccDecOf c m w buf cur = .error r) : isDecodeKind r.kind = true := by
  unfold ccDecOf at h
  rcases hx : ccSectionOf c m w buf cur with a | p <;> rw [hx] at h <;> cases h
  exact isDecodeKind_of_ccSectionOf hx

end Kinds

/-! The internal operations. -/

/-- What a reading operation does: it hands a result back with its warnings, or it raises a decode-side kind. -/
inductive ReaderStep (c : Cfg) (s : State) : State → Prop
  | handed (w : List Nat) (r : Ret) : ReaderStep c s (handBack s w r)
  | raised (r : Raise) (hkind : isDecodeKind r.kind = true) : ReaderStep c s (raiseDecode c s r)

section Internal

variable {c : Cfg} {s t : State}

/-- An operation answers a next state only on the operands its rule names. -/
theorem withinContract_next {ok : Bool} {o : Out} (h : withinContract ok o = .next t) : ok = true ∧ o = .next t := by
  cases ok
  · cases h
  · exact ⟨rfl, h⟩

theorem readerStep_of_decStep {α : Type} {x : Except Raise (α × List Nat)} {ret : α → Ret}
    (h : decStep c s x ret = .next t) (hkind : ∀ r, x = .error r → isDecodeKind r.kind = true) : ReaderStep c s t := by
  rcases decStep_cases c s x ret with ⟨r, hr, heq⟩ | ⟨a, w, -, heq⟩ <;> cases heq.symm.trans h
  · exact .raised r (hkind r hr)
  · exact .handed w _

theorem readerStep_of_checkStep {cs : List Check} (h : checkStep c s cs (fun w => { s with warn := w }) = .next t)
    (hcs : cs.all raisesDecodeKind = true) : ReaderStep c s t := by
  rcases checkStep_cases c s cs fun w => { s with warn := w } with ⟨r, hr, heq⟩ | ⟨w, -, heq⟩ <;>
    cases heq.symm.trans h
  · exact .raised r (isDecodeKind_of_runChecks hcs hr)
  · exact .handed w s.ret

theorem readerStep_of_exec {i : Instr} (hi : isReader i = true) (h : execWith c i s = .next t) :
    ReaderStep c s t := by
  cases i
  case bfExtract span hi lo =>
    cases (withinContract_next h).2
    exact .handed _ _
  case bfPack k fields =>
    cases (withinContract_next h).2
    exact .handed _ _
  case bfChkrsv => exact readerStep_of_checkStep (withinContract_next h).2 rfl
  case secExpect => exact readerStep_of_checkStep h rfl
  case hdrDec => exact readerStep_of_decStep h fun r => isDecodeKind_of_yield rfl
  case tcDec => exact readerStep_of_decStep h fun r => isDecodeKind_of_yield rfl
  case ccDec => exact readerStep_of_decStep h fun r => isDecodeKind_of_ccDecOf
  case cctDec => exact readerStep_of_decStep (withinContract_next h).2 fun r => isDecodeKind_of_yield rfl
  case svcDec => exact readerStep_of_decStep h fun r => isDecodeKind_of_yield rfl
  case sveDec =>
    cases (withinContract_next h).2
    exact .handed _ _
  case ftrDec => exact readerStep_of_decStep h fun r => isDecodeKind_of_yield rfl
  all_goals cases hi

theorem emit_of_exec {i : Instr} (hi : isEmitter i = true) (h : execWith c i s = .next t) :
    ∃ bytes, t = emit s bytes := by
  cases i
  case hdrEnc | tcEnc | cctEnc | ftrEnc =>
    cases h
    exact ⟨_, rfl⟩
  case ccEnc | svcEnc | sveEnc =>
    cases (withinContract_next h).2
    exact ⟨_, rfl⟩
  all_goals cases hi

end Internal

/-! Every instruction. -/

/-- What an instruction that answers a next state has done. -/
inductive Ran (c : Cfg) (s : State) : Instr → State → Prop
  | wire {i : Instr} {t : State} (hi : isWire i = true) (h : WireStep c s t) : Ran c s i t
  | reader {i : Instr} {t : State} (hi : isReader i = true) (h : ReaderStep c s t) : Ran c s i t
  | emitter {i : Instr} (hi : isEmitter i = true) (bytes : List Byte) : Ran c s i (emit s bytes)
  | nop : Ran c s .nop s
  | offered {i : Instr} (hi : isCommand i = true) (hbusy : busy s = true) : Ran c s i s
  | decode {t : State} (hready : busy s = false) (h : commandDecode c s = .next t) : Ran c s .decode t
  | encode (hready : busy s = false) :
      Ran c s .encode (endEncode c (startEncode s) (encodePacket c (bankPkt c s.f)))
  | ckCompute (hready : busy s = false) (x : Byte) : Ran c s .ckCompute (markDone (finishChecksum s x))
  | ckValidate (hready : busy s = false) (x : Byte) : Ran c s .ckValidate (finishChecksum s x)
  | seqObserve (hready : busy s = false) : Ran c s .seqObserve (observe s)
  | seqReset (hready : busy s = false) : Ran c s .seqReset (forgetLast s)

/-- A command offered to a busy port changes nothing; on a ready one it runs. -/
theorem ran_of_whenReady {c : Cfg} {i : Instr} {s t : State} {o : Out} (hi : isCommand i = true)
    (h : whenReady s o = .next t) (hrun : busy s = false → o = .next t → Ran c s i t) : Ran c s i t := by
  cases hbusy : busy s
  · exact hrun hbusy ((whenReady_ready hbusy).symm.trans h)
  · cases (whenReady_busy hbusy).symm.trans h
    exact .offered hi hbusy

theorem ran_of_exec {c : Cfg} {i : Instr} {s t : State} (h : execWith c i s = .next t) : Ran c s i t := by
  cases i
  case nop =>
    cases h
    exact .nop
  case reservedCmd7 => cases h
  case decode => exact ran_of_whenReady rfl h .decode
  case encode => exact ran_of_whenReady rfl h fun hready hrun => Host.Outcome.next.inj hrun ▸ .encode hready
  case ckCompute => exact ran_of_whenReady rfl h fun hready hrun => Host.Outcome.next.inj hrun ▸ .ckCompute hready _
  case ckValidate => exact ran_of_whenReady rfl h fun hready hrun => Host.Outcome.next.inj hrun ▸ .ckValidate hready _
  case seqObserve => exact ran_of_whenReady rfl h fun hready hrun => Host.Outcome.next.inj hrun ▸ .seqObserve hready
  case seqReset => exact ran_of_whenReady rfl h fun hready hrun => Host.Outcome.next.inj hrun ▸ .seqReset hready
  case hdrEnc | tcEnc | ccEnc | cctEnc | svcEnc | sveEnc | ftrEnc =>
    obtain ⟨bytes, rfl⟩ := emit_of_exec rfl h
    exact .emitter rfl bytes
  case header | timecode | ccdataHead | ccTriplet | svcinfoHead | svcEntry | footer =>
    exact .wire rfl (wireStep_of_exec rfl h)
  all_goals exact .reader rfl (readerStep_of_exec rfl h)

end Sys2Proof.Machine
end

section
/-! The framer run to the end of its operation: it always ends, it only advances, and it computes DECODE. -/

namespace Sys2Proof.Machine

open Sys2Proof.Safety (runFramer maxFramerSteps frameRank)

/-! How many steps are left. -/

/-- The most elements a counted section still has: its head and 31 entries, or the entries it lacks. -/
def sectionStepsLeft {α : Type} : Option (BitVec 5 × List α) → Nat
  | none => 32
  | some (cnt, l) => max 1 (cnt.toNat - l.length)

/-- The most steps a decode still takes, from its framing state and the entries read there. -/
def stepsLeft (s : State) : Nat :=
  match s.st with
  | .idle | .done | .failed => 0
  | .header => 67
  | .timeCode => 66
  | .ccData => 33 + sectionStepsLeft s.pend.cc
  | .serviceInfo => 1 + sectionStepsLeft s.pend.svc
  | .footer => 1

theorem sectionStepsLeft_bounds {α : Type} (o : Option (BitVec 5 × List α)) :
    1 ≤ sectionStepsLeft o ∧ sectionStepsLeft o ≤ 32 := by
  rcases o with _ | ⟨cnt, l⟩ <;> simp only [sectionStepsLeft] <;> omega

/-- After its head a section has at most 31 entries left. -/
theorem sectionStepsLeft_head {α : Type} (cnt : BitVec 5) : sectionStepsLeft (some (cnt, ([] : List α))) ≤ 31 := by
  simp only [sectionStepsLeft, List.length_nil]
  omega

/-- An entry read that was not the last leaves one fewer. -/
theorem sectionStepsLeft_entry {α : Type} {cnt : BitVec 5} {l : List α} {x : α} (h : (l ++ [x]).length < cnt.toNat) :
    sectionStepsLeft (some (cnt, l ++ [x])) < sectionStepsLeft (some (cnt, l)) := by
  simp only [List.length_append, List.length_singleton] at h
  simp only [sectionStepsLeft, List.length_append, List.length_singleton]
  omega

theorem stepsLeft_bounds (s : State) : stepsLeft s ≤ 67 ∧ (stepsLeft s = 0 → busy s = false) := by
  have hcc := sectionStepsLeft_bounds s.pend.cc
  have hsvc := sectionStepsLeft_bounds s.pend.svc
  unfold stepsLeft busy
  cases s.st <;> simp <;> omega

/-- The state after a section has at most the steps of those behind it. -/
theorem stepsLeft_advance (s : State) (k : Nat) :
    stepsLeft (advance s k .header) ≤ 66 ∧ stepsLeft (advance s k .timeCode) ≤ 65 ∧
      stepsLeft (advance s k .ccData) ≤ 33 ∧ stepsLeft (advance s k .serviceInfo) = 1 := by
  have hcc := sectionStepsLeft_bounds s.pend.cc
  have hsvc := sectionStepsLeft_bounds s.pend.svc
  refine ⟨?_, ?_, ?_, rfl⟩ <;> simp only [stepsLeft, advance_st, advance_pend, nextFrame] <;> split_ifs <;>
    simp only <;> omega

theorem stepsLeft_takeTriplets {s : State} (hst : s.st = .ccData) (k : Nat) (cnt : BitVec 5) (l : List Triplet) :
    stepsLeft (takeTriplets s k cnt l) ≤ 33 ∨
      l.length < cnt.toNat ∧ stepsLeft (takeTriplets s k cnt l) = 33 + sectionStepsLeft (some (cnt, l)) := by
  by_cases h : cnt.toNat ≤ l.length
  · rw [takeTriplets_last h]
    exact .inl (stepsLeft_advance _ _).2.2.1
  · rw [takeTriplets_more (Nat.not_le.1 h)]
    exact .inr ⟨Nat.not_le.1 h, by simp [stepsLeft, hst]⟩

theorem stepsLeft_takeEntries {s : State} (hst : s.st = .serviceInfo) (k : Nat) (cnt : BitVec 5) (l : List SvcEntry) :
    stepsLeft (takeEntries s k cnt l) ≤ 1 ∨
      l.length < cnt.toNat ∧ stepsLeft (takeEntries s k cnt l) = 1 + sectionStepsLeft (some (cnt, l)) := by
  by_cases h : cnt.toNat ≤ l.length
  · rw [takeEntries_last h]
    exact .inl (stepsLeft_advance _ _).2.2.2.le
  · rw [takeEntries_more (Nat.not_le.1 h)]
    exact .inr ⟨Nat.not_le.1 h, by simp [stepsLeft, hst]⟩

/-- An element's checks are due only while a decode runs. -/
theorem busy_of_dueChecks {c : Cfg} {s : State} {cs : List Check} (h : DueChecks c s cs) : busy s = true := by
  cases h <;> simp [busy, *]

/-- A step of a running decode leaves fewer steps. -/
theorem WireStep.stepsLeft_lt {c : Cfg} {s t : State} (h : WireStep c s t) : stepsLeft t < stepsLeft s := by
  cases h
  case raised hdue _ =>
    have hbusy := busy_of_dueChecks hdue
    refine Nat.pos_of_ne_zero fun hzero => ?_
    rw [(stepsLeft_bounds s).2 hzero] at hbusy
    cases hbusy
  case header hst w h =>
    have hleft : stepsLeft s = 67 := by simp [stepsLeft, hst]
    rw [hleft]
    exact Nat.lt_succ_of_le (stepsLeft_advance _ _).1
  case timeCode hst w t =>
    have hleft : stepsLeft s = 66 := by simp [stepsLeft, hst]
    rw [hleft]
    exact Nat.lt_succ_of_le (stepsLeft_advance _ _).2.1
  case ccHead hst hnone w cnt =>
    have hleft : stepsLeft s = 65 := by simp [stepsLeft, hst, hnone, sectionStepsLeft]
    have hhead := sectionStepsLeft_head (α := Triplet) cnt
    rcases stepsLeft_takeTriplets (s := { s with warn := w }) hst (s.cur + 2) cnt [] with h | ⟨-, h⟩ <;> omega
  case ccTriplet hst cnt l hsome w t =>
    have hleft : stepsLeft s = 33 + sectionStepsLeft (some (cnt, l)) := by simp [stepsLeft, hst, hsome]
    have hpos := sectionStepsLeft_bounds (some (cnt, l))
    rcases stepsLeft_takeTriplets (s := { s with warn := w }) hst (s.cur + c.cctBytes) cnt (l ++ [t]) with h | ⟨hmore, h⟩
    · omega
    · have hentry := sectionStepsLeft_entry hmore
      omega
  case svcHead hst hnone w cnt =>
    have hleft : stepsLeft s = 33 := by simp [stepsLeft, hst, hnone, sectionStepsLeft]
    have hhead := sectionStepsLeft_head (α := SvcEntry) cnt
    rcases stepsLeft_takeEntries (s := { s with warn := w }) hst (s.cur + 2) cnt [] with h | ⟨-, h⟩ <;> omega
  case svcEntry hst cnt l hsome w e =>
    have hleft : stepsLeft s = 1 + sectionStepsLeft (some (cnt, l)) := by simp [stepsLeft, hst, hsome]
    have hpos := sectionStepsLeft_bounds (some (cnt, l))
    rcases stepsLeft_takeEntries (s := { s with warn := w }) hst (s.cur + c.svcEntryBytes) cnt (l ++ [e]) with
      h | ⟨hmore, h⟩
    · omega
    · have hentry := sectionStepsLeft_entry hmore
      omega
  case footer hst _ w p sum =>
    have hleft : stepsLeft s = 1 := by simp [stepsLeft, hst]
    rw [hleft]
    exact Nat.one_pos

/-! The framer run. -/

theorem runFramer_ready {c : Cfg} {s : State} (h : busy s = false) : ∀ k, runFramer c k s = .next s
  | 0 => rfl
  | k + 1 => by simp [runFramer, h]

theorem runFramer_step {c : Cfg} {s t : State} (h : busy s = true) (hstep : stepWith c s = .next t) (k : Nat) :
    runFramer c (k + 1) s = runFramer c k t := by
  simp [runFramer, h, hstep]

/-- With as many steps as are left the framer ends its operation. -/
theorem runFramer_ends (c : Cfg) : ∀ {k : Nat} {s : State}, stepsLeft s ≤ k →
    ∃ t, runFramer c k s = .next t ∧ busy t = false
  | 0, s, h => ⟨s, rfl, (stepsLeft_bounds s).2 (Nat.le_zero.1 h)⟩
  | k + 1, s, h => by
    cases hbusy : busy s
    · exact ⟨s, runFramer_ready hbusy _, hbusy⟩
    · obtain ⟨t, hstep, hwire⟩ := stepWith_busy c hbusy
      have hlt := hwire.stepsLeft_lt
      rw [runFramer_step hbusy hstep]
      exact runFramer_ends c (by omega)

/-- Settles O19: every step of a running decode leaves fewer steps, of which there are at most 67. -/
theorem framerAlwaysEnds : Obligations.FramerAlwaysEnds :=
  fun c s _ => runFramer_ends c (stepsLeft_bounds s).1

/-- What every step of a running decode keeps, the framer run keeps. -/
theorem runFramer_invariant {c : Cfg} {P : State → Prop}
    (hkeep : ∀ s t, busy s = true → P s → stepWith c s = .next t → P t) :
    ∀ {k : Nat} {s t : State}, P s → runFramer c k s = .next t → P t
  | 0, s, t, hs, h => by
    cases h
    exact hs
  | k + 1, s, t, hs, h => by
    cases hbusy : busy s
    · cases (runFramer_ready hbusy _).symm.trans h
      exact hs
    · obtain ⟨u, hstep, -⟩ := stepWith_busy c hbusy
      rw [runFramer_step hbusy hstep] at h
      exact runFramer_invariant hkeep (hkeep s u hbusy hs hstep) h

end Sys2Proof.Machine
end

section
/-! A framing step never goes back (spec/10_state.md R32, R33). -/

namespace Sys2Proof.Machine

open Sys2Proof.Safety (frameRank)

/-- A framing step never goes back: the state and the cursor behind the header advance; it stays only inside a counted
section, and leaves to the state the demultiplexer names, to `Done` or to `Failed`. -/
def Advances (s t : State) : Prop :=
  frameRank s.st ≤ frameRank t.st ∧ (s.st ≠ .header → s.cur ≤ t.cur) ∧
    (t.st = s.st → s.st = .ccData ∨ s.st = .serviceInfo) ∧
    (t.st ≠ s.st → t.st = .failed ∨ t.st = .done ∧ s.st = .footer ∨ t.st = nextFrame t.pend.hdr.flags s.st)

/-- The demultiplexer never goes back, and it leaves every state an operation runs in. -/
theorem frameRank_nextFrame (fl : Flags) (st : FrameState) :
    frameRank st ≤ frameRank (nextFrame fl st) ∧
      (st = .header ∨ st = .timeCode ∨ st = .ccData ∨ st = .serviceInfo → nextFrame fl st ≠ st) := by
  cases st <;> unfold nextFrame <;> dsimp only <;> repeat' split
  all_goals decide

theorem advances_advance {s u : State} {k : Nat} {st : FrameState} (hst : s.st = st)
    (hrun : st = .header ∨ st = .timeCode ∨ st = .ccData ∨ st = .serviceInfo) (hcur : st ≠ .header → s.cur ≤ k) :
    Advances s (advance u k st) := by
  subst hst
  obtain ⟨hrank, hleave⟩ := frameRank_nextFrame u.pend.hdr.flags s.st
  exact ⟨hrank, hcur, fun hstay => absurd hstay (hleave hrun), fun _ => .inr (.inr rfl)⟩

theorem advances_takeTriplets {s : State} (hst : s.st = .ccData) {k : Nat} (hcur : s.cur ≤ k) (w : List Nat)
    (cnt : BitVec 5) (l : List Triplet) : Advances s (takeTriplets { s with warn := w } k cnt l) := by
  by_cases h : cnt.toNat ≤ l.length
  · rw [takeTriplets_last h]
    exact advances_advance hst (by decide) fun _ => hcur
  · rw [takeTriplets_more (Nat.not_le.1 h)]
    exact ⟨le_rfl, fun _ => hcur, fun _ => .inl hst, fun hne => absurd rfl hne⟩

theorem advances_takeEntries {s : State} (hst : s.st = .serviceInfo) {k : Nat} (hcur : s.cur ≤ k) (w : List Nat)
    (cnt : BitVec 5) (l : List SvcEntry) : Advances s (takeEntries { s with warn := w } k cnt l) := by
  by_cases h : cnt.toNat ≤ l.length
  · rw [takeEntries_last h]
    exact advances_advance hst (by decide) fun _ => hcur
  · rw [takeEntries_more (Nat.not_le.1 h)]
    exact ⟨le_rfl, fun _ => hcur, fun _ => .inr hst, fun hne => absurd rfl hne⟩

theorem WireStep.advances {c : Cfg} {s t : State} (h : WireStep c s t) : Advances s t := by
  cases h
  case raised hdue _ =>
    have hne : s.st ≠ .failed := fun hst => by simpa [busy, hst] using busy_of_dueChecks hdue
    have hrank : frameRank s.st ≤ frameRank .failed := by cases s.st <;> decide
    exact ⟨hrank, fun _ => le_rfl, fun hstay => absurd hstay.symm hne, fun _ => .inl rfl⟩
  case header hst w h => exact advances_advance hst (by decide) fun hne => absurd rfl hne
  case timeCode hst w t => exact advances_advance hst (by decide) fun _ => Nat.le_add_right _ _
  case ccHead hst _ w cnt => exact advances_takeTriplets hst (Nat.le_add_right _ _) w _ _
  case ccTriplet hst _ _ _ w t => exact advances_takeTriplets hst (Nat.le_add_right _ _) w _ _
  case svcHead hst _ w cnt => exact advances_takeEntries hst (Nat.le_add_right _ _) w _ _
  case svcEntry hst _ _ _ w e => exact advances_takeEntries hst (Nat.le_add_right _ _) w _ _
  case footer hst _ w p sum =>
    refine ⟨?_, fun _ => Nat.le_add_right _ _, fun hstay => ?_, fun _ => .inr (.inl ⟨rfl, hst⟩)⟩
    · rw [hst]
      exact Nat.le_succ 5
    · cases hst.symm.trans hstay.symm

/-- Settles O20: each case of a framing step advances. -/
theorem framingStateOnlyAdvances : Obligations.FramingStateOnlyAdvances := by
  intro c s t hbusy hstep
  obtain ⟨u, hnext, hwire⟩ := stepWith_busy c hbusy
  cases hnext.symm.trans hstep
  exact hwire.advances

end Sys2Proof.Machine
end

section
/-! The small steps of the framer compute the atomic DECODE (spec/43_packet_decode.md R164, R165). -/

namespace Sys2Proof.Machine

open Sys2Proof.Safety (runFramer maxFramerSteps)

/-! The end that a running decode comes to. -/

/-- The block's steps end the running operation in this state. -/
def EndsIn (c : Cfg) (s t : State) : Prop :=
  ∃ k, runFramer c k s = .next t ∧ busy t = false

theorem endsIn_ready {c : Cfg} {s : State} (h : busy s = false) : EndsIn c s s :=
  ⟨0, rfl, h⟩

theorem endsIn_step {c : Cfg} {s t u : State} (hbusy : busy s = true) (hstep : stepWith c s = .next t)
    (h : EndsIn c t u) : EndsIn c s u := by
  obtain ⟨k, hrun, hend⟩ := h
  exact ⟨k + 1, (runFramer_step hbusy hstep k).trans hrun, hend⟩

/-- Once ended, more steps change nothing. -/
theorem runFramer_mono {c : Cfg} {k : Nat} {s t : State} (h : runFramer c k s = .next t) (hend : busy t = false)
    (j : Nat) : runFramer c (k + j) s = .next t := by
  induction k generalizing s with
  | zero =>
    cases h
    exact runFramer_ready hend _
  | succ k ih =>
    cases hbusy : busy s
    · rw [runFramer_ready hbusy] at h ⊢
      exact h
    · obtain ⟨u, hstep, -⟩ := stepWith_busy c hbusy
      rw [runFramer_step hbusy hstep] at h
      rw [Nat.add_right_comm, runFramer_step hbusy hstep]
      exact ih h

/-- The most steps a decode takes reach the end it comes to. -/
theorem runFramer_of_endsIn {c : Cfg} {s t : State} (h : EndsIn c s t) : runFramer c maxFramerSteps s = .next t := by
  obtain ⟨k, hrun, hend⟩ := h
  obtain ⟨u, hmax, huend⟩ := runFramer_ends c (stepsLeft_bounds s).1
  have hu := runFramer_mono hmax huend k
  have ht := runFramer_mono hrun hend 67
  rw [Nat.add_comm, hu] at ht
  rw [maxFramerSteps, hmax, ht]

/-- The end of a decode under way, by what is left of the packet function. -/
def endDecode (c : Cfg) (s : State) (x : Except Abort Decoded) : State :=
  match x with
  | .error a => raiseDecode c { s with cur := a.cur } a.raised
  | .ok d => finishDecode c s d.pkt d.consumed (sum8 (spanOf (inBytes s) 0 d.consumed)) d.warn

theorem commandDecode_eq (c : Cfg) (s : State) :
    commandDecode c s = .next (endDecode c (startDecode c s) (decodePacket c s.mode (operandBytes s))) := by
  unfold commandDecode endDecode
  dsimp only
  have hbuf : inBytes (startDecode c s) = operandBytes s := rfl
  rw [hbuf, startDecode_modeSample]
  cases decodePacket c s.mode (operandBytes s) <;> rfl

/-- The end does not depend on where the framer stands, on what it holds, nor on the warnings so far. -/
theorem endDecode_congr (c : Cfg) {s t : State}
    (h : t = { s with st := t.st, cur := t.cur, warn := t.warn, pend := t.pend }) (x : Except Abort Decoded) :
    endDecode c t x = endDecode c s x := by
  rw [h]
  cases x <;> rfl

theorem optional_absent {α : Type} {p : Bit} {w : List Nat} {x : Except Abort (α × List Nat)} (hp : p ≠ 1) :
    optional p w x = .ok (none, w) :=
  if_neg hp

/-- The end as it is seen from a state in which the framer stands elsewhere in the same decode. -/
theorem EndsIn.congr {c : Cfg} {s t u : State} {x : Except Abort Decoded} (h : EndsIn c u (endDecode c t x))
    (ht : t = { s with st := t.st, cur := t.cur, warn := t.warn, pend := t.pend }) : EndsIn c u (endDecode c s x) := by
  rwa [← endDecode_congr c ht]

/-! What is left of the packet function behind each section. -/

section Rest

variable (c : Cfg) (m : Mode) (buf : List Byte) (h : HeaderRegs)

/-- What is left of the packet function in state Footer. -/
def restFooter (tc : Option TimeCode) (cc : Option (List Triplet)) (svc : Option (List SvcEntry)) (cur : Nat)
    (w : List Nat) : Except Abort Decoded :=
  atCur cur (footerOf c m w buf cur h tc cc svc)

/-- What is left of the packet function behind the cc-data section. -/
def restSvc (tc : Option TimeCode) (cc : Option (List Triplet)) (cur : Nat) (w : List Nat) : Except Abort Decoded :=
  match optional h.flags.svc w (atCur cur (svcDecOf c m w buf cur)) with
  | .error a => .error a
  | .ok (svc, w') => restFooter c m buf h tc cc svc (cur + svcSize c svc) w'

/-- What is left of the packet function behind the triplets of a cc-data section. -/
def restTriplets (tc : Option TimeCode) (l : List Triplet) (cur : Nat) (x : Except Abort (List Triplet × List Nat)) :
    Except Abort Decoded :=
  match x with
  | .error a => .error a
  | .ok (ts, w) => restSvc c m buf h tc (some (l ++ ts)) (cur + c.cctBytes * ts.length) w

/-- What is left of the packet function behind the time-code section. -/
def restCc (tc : Option TimeCode) (cur : Nat) (w : List Nat) : Except Abort Decoded :=
  match optional h.flags.cc w (ccSectionOf c m w buf cur) with
  | .error a => .error a
  | .ok (cc, w') => restSvc c m buf h tc cc (cur + ccSize c cc) w'

/-- What is left of the packet function behind the header. -/
def restTc (cur : Nat) (w : List Nat) : Except Abort Decoded :=
  match optional h.flags.tc w (atCur cur (tcDecOf c m w buf cur)) with
  | .error a => .error a
  | .ok (tc, w') => restCc c m buf h tc (cur + tcSize c tc) w'

end Rest

/-- The packet function is the header and then the rest. -/
theorem decodePacket_eq (c : Cfg) (m : Mode) (buf : List Byte) :
    decodePacket c m buf =
      match hdrDecOf c m [] buf with
      | .error r => .error ⟨r, 0⟩
      | .ok (h, w) => restTc c m buf h c.hdrBytes w := by
  unfold decodePacket
  cases hdrDecOf c m [] buf <;> rfl

/-! The framer computes what is left, section by section from the last. -/

section Simulation

variable {c : Cfg} {s : State}

/-- A step on the element due ends the decode by the failure of its checks, or it goes on from what it holds. -/
theorem endsIn_frameStep {cs : List Check} {k : State → State} {u : State} (hbusy : busy s = true)
    (hstep : stepWith c s = frameStep c s cs k)
    (herror : ∀ r, runChecks s.modeSample s.warn cs = .error r → u = raiseDecode c s r)
    (hok : ∀ w, runChecks s.modeSample s.warn cs = .ok w → EndsIn c (k { s with warn := w }) u) : EndsIn c s u := by
  rcases frameStep_cases c s cs k with ⟨r, hr, heq⟩ | ⟨w, hw, heq⟩
  · rw [herror r hr]
    exact endsIn_step hbusy (hstep.trans heq) (endsIn_ready rfl)
  · exact endsIn_step hbusy (hstep.trans heq) (hok w hw)

theorem inBytes_length (s : State) : (inBytes s).length = s.n := memSpan_length _ _ _

/-- State Footer as one list of checks on the footer found. -/
theorem footerOf_eq (c : Cfg) (m : Mode) (w : List Nat) (buf : List Byte) (cur : Nat) (h : HeaderRegs)
    (tc : Option TimeCode) (cc : Option (List Triplet)) (svc : Option (List SvcEntry)) :
    footerOf c m w buf cur h tc cc svc =
      match runChecks m w (ftrChecks c buf.length cur (parseFooter (spanOf buf cur c.ftrBytes)) ++
        packetChecks cur (cur + c.ftrBytes) (sum8 (spanOf buf 0 (cur + c.ftrBytes))) h
          (parseFooter (spanOf buf cur c.ftrBytes))) with
      | .error r => .error r
      | .ok w' => .ok ⟨⟨h, tc, cc, svc, (parseFooter (spanOf buf cur c.ftrBytes)).fseq,
          (parseFooter (spanOf buf cur c.ftrBytes)).cksum⟩, cur + c.ftrBytes, w'⟩ := by
  simp only [footerOf, ftrDecOf, yield, runChecks_append]
  cases runChecks m w (ftrChecks c buf.length cur (parseFooter (spanOf buf cur c.ftrBytes))) <;> rfl

theorem endsIn_footer (hst : s.st = .footer) :
    EndsIn c s (endDecode c s (restFooter c s.modeSample (inBytes s) s.pend.hdr s.pend.tc (s.pend.cc.map Prod.snd)
      (s.pend.svc.map Prod.snd) s.cur s.warn)) := by
  have hbusy : busy s = true := by simp [busy, hst]
  refine endsIn_frameStep hbusy (stepWith_footer hst) (fun r hr => ?_) fun w hw => ?_
  · rw [restFooter, footerOf_eq, inBytes_length, hr]
    rfl
  · rw [restFooter, footerOf_eq, inBytes_length, hw]
    exact endsIn_ready rfl

/-! The service-info section. -/

/-- The entries not read yet, `j` of them, and then the footer. -/
theorem endsIn_takeEntries {cnt : BitVec 5} : ∀ {j : Nat} {s : State} {k : Nat} {l : List SvcEntry},
    s.st = .serviceInfo → l.length + j = cnt.toNat →
    EndsIn c (takeEntries s k cnt l) (endDecode c s (restFooter c s.modeSample (inBytes s) s.pend.hdr s.pend.tc
      (s.pend.cc.map Prod.snd) (some (l ++ entriesOf c (inBytes s) j k)) (k + c.svcEntryBytes * j) s.warn))
  | 0, s, k, l, _, hlen => by
    rw [takeEntries_last hlen.ge, entriesOf, List.append_nil]
    have hrest := endsIn_footer (c := c)
      (s := advance { s with pend := { s.pend with svc := some (cnt, l) } } k .serviceInfo) rfl
    exact hrest.congr rfl
  | j + 1, s, k, l, hst, hlen => by
    rw [takeEntries_more (by omega)]
    let u : State := { s with pend := { s.pend with svc := some (cnt, l) }, cur := k }
    have hrest := endsIn_takeEntries (cnt := cnt) (j := j) (s := u) (k := k + c.svcEntryBytes)
      (l := l ++ [sveDecOf c (inBytes s) k]) hst (by simp; omega)
    rw [List.append_assoc, Nat.add_assoc, Nat.add_comm c.svcEntryBytes, ← Nat.mul_succ] at hrest
    exact endsIn_step (by simp [busy, hst]) (stepWith_svcEntry hst rfl) (hrest.congr rfl)

theorem endsIn_restSvc (hst : s.st = nextFrame s.pend.hdr.flags .ccData) (hnone : s.pend.svc = none) :
    EndsIn c s (endDecode c s (restSvc c s.modeSample (inBytes s) s.pend.hdr s.pend.tc (s.pend.cc.map Prod.snd)
      s.cur s.warn)) := by
  by_cases hflag : s.pend.hdr.flags.svc = 1
  · have hsvc : s.st = .serviceInfo := hst.trans (if_pos hflag)
    refine endsIn_frameStep (by simp [busy, hsvc]) (stepWith_svcHead hsvc hnone) (fun r hr => ?_) fun w hw => ?_
    · simp only [restSvc, optional, if_pos hflag, svcDecOf, yield, inBytes_length, hr]
      rfl
    · have hrest := endsIn_takeEntries (c := c) (s := { s with warn := w }) (k := s.cur + 2) (l := []) hsvc
        (Nat.zero_add (parseCountHead (spanOf (inBytes s) s.cur 2)).count.toNat)
      simp only [restSvc, optional, if_pos hflag, svcDecOf, yield, inBytes_length, hw]
      simp only [atCur, svcSize, entriesOf_length, ← Nat.add_assoc]
      exact hrest.congr rfl
  · have hrest := endsIn_footer (c := c) (hst.trans (if_neg hflag))
    rw [hnone] at hrest
    rw [restSvc, optional_absent hflag]
    exact hrest

/-! The cc-data section. -/

/-- A triplet whose marker check fails ends the section at its offset. -/
theorem tripletsOf_error {m : Mode} {w : List Nat} {buf : List Byte} {o : Nat} {r : Raise}
    (h : runChecks m w (tripletChecks c o (parseTriplet (spanOf buf o c.cctBytes))) = .error r) (k : Nat) :
    tripletsOf c m buf (k + 1) o w = .error ⟨r, o⟩ := by
  simp only [tripletsOf, cctDecOf, yield, h, atCur]

/-- A triplet whose marker check passes stands before those behind it. -/
theorem tripletsOf_ok {m : Mode} {w w' : List Nat} {buf : List Byte} {o : Nat}
    (h : runChecks m w (tripletChecks c o (parseTriplet (spanOf buf o c.cctBytes))) = .ok w') (k : Nat) :
    tripletsOf c m buf (k + 1) o w =
      (tripletsOf c m buf k (o + c.cctBytes) w').map
        (Prod.map (List.cons (parseTriplet (spanOf buf o c.cctBytes)).t) id) := by
  simp only [tripletsOf, cctDecOf, yield, h, atCur]
  cases tripletsOf c m buf k (o + c.cctBytes) w' <;> rfl

/-- One triplet more in front of those still to be read. -/
theorem restTriplets_cons {m : Mode} {buf : List Byte} {h : HeaderRegs} {tc : Option TimeCode} {l : List Triplet}
    {t : Triplet} {k : Nat} {x : Except Abort (List Triplet × List Nat)} :
    restTriplets c m buf h tc l k (x.map (Prod.map (List.cons t) id)) =
      restTriplets c m buf h tc (l ++ [t]) (k + c.cctBytes) x := by
  rcases x with a | ⟨ts, w⟩
  · rfl
  · simp only [Except.map, Prod.map, restTriplets, List.append_assoc, List.singleton_append, List.length_cons]
    rw [Nat.mul_succ, Nat.add_comm _ c.cctBytes, ← Nat.add_assoc]
    rfl

/-- The triplets not read yet, `j` of them, and then what is behind the section. -/
theorem endsIn_takeTriplets {cnt : BitVec 5} : ∀ {j : Nat} {s : State} {k : Nat} {l : List Triplet},
    s.st = .ccData → s.pend.svc = none → l.length + j = cnt.toNat →
    EndsIn c (takeTriplets s k cnt l) (endDecode c s (restTriplets c s.modeSample (inBytes s) s.pend.hdr s.pend.tc l k
      (tripletsOf c s.modeSample (inBytes s) j k s.warn)))
  | 0, s, k, l, _, hnone, hlen => by
    rw [takeTriplets_last hlen.ge, tripletsOf, restTriplets, List.append_nil]
    have hrest := endsIn_restSvc (c := c) (s := advance { s with pend := { s.pend with cc := some (cnt, l) } } k .ccData)
      rfl hnone
    exact hrest.congr rfl
  | j + 1, s, k, l, hst, hnone, hlen => by
    rw [takeTriplets_more (by omega)]
    let u : State := { s with pend := { s.pend with cc := some (cnt, l) }, cur := k }
    refine endsIn_frameStep (s := u) (by simp [busy, hst, u]) (stepWith_ccTriplet hst rfl) (fun r hr => ?_) fun w hw => ?_
    · replace hr : runChecks s.modeSample s.warn (tripletChecks c k (parseTriplet (spanOf (inBytes s) k c.cctBytes))) =
        .error r := hr
      rw [tripletsOf_error hr]
      rfl
    · replace hw : runChecks s.modeSample s.warn (tripletChecks c k (parseTriplet (spanOf (inBytes s) k c.cctBytes))) =
        .ok w := hw
      have hrest := endsIn_takeTriplets (cnt := cnt) (j := j) (s := { u with warn := w }) (k := k + c.cctBytes)
        (l := l ++ [(parseTriplet (spanOf (inBytes s) k c.cctBytes)).t]) hst hnone (by simp; omega)
      rw [tripletsOf_ok hw, restTriplets_cons]
      exact hrest.congr rfl

/-- Behind a head that passes stand the triplets. -/
theorem restCc_head {m : Mode} {w w' : List Nat} {buf : List Byte} {h : HeaderRegs} {cur : Nat} (tc : Option TimeCode)
    (hflag : h.flags.cc = 1)
    (hw : runChecks m w (ccHeadChecks c buf.length cur (parseCountHead (spanOf buf cur 2))) = .ok w') :
    restCc c m buf h tc cur w = restTriplets c m buf h tc [] (cur + 2)
      (tripletsOf c m buf (parseCountHead (spanOf buf cur 2)).count.toNat (cur + 2) w') := by
  simp only [restCc, optional, if_pos hflag, ccSectionOf, hw, atCur]
  rcases tripletsOf c m buf (parseCountHead (spanOf buf cur 2)).count.toNat (cur + 2) w' with a | ⟨ts, w2⟩
  · rfl
  · simp only [restTriplets, ccSize, List.nil_append, Nat.add_assoc]

theorem endsIn_restCc (hst : s.st = nextFrame s.pend.hdr.flags .timeCode) (hcc : s.pend.cc = none)
    (hsvc : s.pend.svc = none) :
    EndsIn c s (endDecode c s (restCc c s.modeSample (inBytes s) s.pend.hdr s.pend.tc s.cur s.warn)) := by
  by_cases hflag : s.pend.hdr.flags.cc = 1
  · replace hst : s.st = .ccData := hst.trans (if_pos hflag)
    refine endsIn_frameStep (by simp [busy, hst]) (stepWith_ccHead hst hcc) (fun r hr => ?_) fun w hw => ?_
    · simp only [restCc, optional, if_pos hflag, ccSectionOf, inBytes_length, hr]
      rfl
    · have hrest := endsIn_takeTriplets (c := c) (s := { s with warn := w }) (k := s.cur + 2) (l := []) hst hsvc
        (Nat.zero_add (parseCountHead (spanOf (inBytes s) s.cur 2)).count.toNat)
      rw [restCc_head _ hflag ((inBytes_length s).symm ▸ hw)]
      exact hrest.congr rfl
  · have hrest := endsIn_restSvc (c := c) (hst.trans (if_neg hflag)) hsvc
    rw [hcc] at hrest
    rw [restCc, optional_absent hflag]
    exact hrest

theorem endsIn_restTc (hst : s.st = nextFrame s.pend.hdr.flags .header) (htc : s.pend.tc = none)
    (hcc : s.pend.cc = none) (hsvc : s.pend.svc = none) :
    EndsIn c s (endDecode c s (restTc c s.modeSample (inBytes s) s.pend.hdr s.cur s.warn)) := by
  by_cases hflag : s.pend.hdr.flags.tc = 1
  · replace hst : s.st = .timeCode := hst.trans (if_pos hflag)
    refine endsIn_frameStep (by simp [busy, hst]) (stepWith_timeCode hst) (fun r hr => ?_) fun w hw => ?_
    · simp only [restTc, optional, if_pos hflag, tcDecOf, yield, inBytes_length, hr]
      rfl
    · have hrest := endsIn_restCc (c := c)
        (s := takeTimeCode c { s with warn := w } (parseTimeCode (spanOf (inBytes s) s.cur c.tcBytes)).tc) rfl hcc hsvc
      simp only [restTc, optional, if_pos hflag, tcDecOf, yield, inBytes_length, hw]
      exact hrest.congr rfl
  · have hrest := endsIn_restCc (c := c) (hst.trans (if_neg hflag)) hcc hsvc
    rw [htc] at hrest
    rw [restTc, optional_absent hflag]
    exact hrest

/-- From its start a decode comes to the end that the packet function says. -/
theorem endsIn_startDecode (c : Cfg) (s : State) :
    EndsIn c (startDecode c s) (endDecode c (startDecode c s) (decodePacket c s.mode (operandBytes s))) := by
  refine endsIn_frameStep rfl (stepWith_header rfl) (fun r hr => ?_) fun w hw => ?_
  · replace hr : runChecks s.mode [] (hdrChecks c (operandBytes s).length
        (parseHeader (spanOf (operandBytes s) 0 c.hdrBytes))) = .error r := by
      rwa [operandBytes, memSpan_length]
    simp only [decodePacket_eq, hdrDecOf, yield, hr]
    rfl
  · replace hw : runChecks s.mode [] (hdrChecks c (operandBytes s).length
        (parseHeader (spanOf (operandBytes s) 0 c.hdrBytes))) = .ok w := by
      rwa [operandBytes, memSpan_length]
    simp only [decodePacket_eq, hdrDecOf, yield, hw]
    have hrest := endsIn_restTc (c := c) (s := takeHeader c { startDecode c s with warn := w }
      (hdrRegsOf c (parseHeader (spanOf (operandBytes s) 0 c.hdrBytes)))) rfl rfl rfl rfl
    exact hrest.congr rfl

end Simulation

/-- Settles O18: the steps from the start come to the end the packet function says, and 67 of them reach it. -/
theorem framerStepsComputeDecode : Obligations.FramerStepsComputeDecode := by
  have hrun : ∀ (c : Cfg) (s : State), busy s = false →
      runFramer c maxFramerSteps (startDecode c s) = execWith c .decode s := fun c s hready =>
    calc runFramer c maxFramerSteps (startDecode c s) = commandDecode c s := by
          rw [runFramer_of_endsIn (endsIn_startDecode c s), commandDecode_eq]
      _ = execWith c .decode s := (whenReady_ready hready).symm
  exact ⟨fun c s _ hready => hrun c s hready, hrun cfg⟩

end Sys2Proof.Machine
end

section
/-! Frames: what an instruction leaves unchanged, by the kind of instruction it is. -/

namespace Sys2Proof.Machine

open Sys2Proof.Safety

/-- An instruction leaves the host's side, `OUT` and the results as they were. -/
def SameOutside (s t : State) : Prop :=
  SameHostSide s t ∧ SameOut s t ∧ SameResults s t

theorem sameOutside_refl (s : State) : SameOutside s s :=
  ⟨⟨rfl, rfl, rfl, rfl, rfl⟩, ⟨rfl, rfl⟩, rfl, rfl, rfl⟩

/-! The wire elements. -/

/-- What an element that is held leaves unchanged: the failure registers, the latch and the free values taken, and until
`Done` the bank and the two registers of the consumed span. It does not end in `Failed`. -/
def HeldFrame (s t : State) : Prop :=
  t.st ≠ .failed ∧ SameErr s t ∧ t.ret = s.ret ∧ t.draws = s.draws ∧
    (t.st = .done ∨ SameBank s t ∧ t.consumed = s.consumed ∧ t.sum = s.sum)

/-- The demultiplexer never goes to `Failed`. -/
theorem nextFrame_ne_failed (fl : Flags) {st : FrameState} (h : st ≠ .failed) : nextFrame fl st ≠ .failed := by
  cases st
  case failed => exact absurd rfl h
  all_goals
    unfold nextFrame
    dsimp only
    repeat' split
  all_goals decide

theorem heldFrame_advance (s : State) (w : List Nat) (p : Pending) (k : Nat) {st : FrameState} (h : st ≠ .failed) :
    HeldFrame s (advance { s with warn := w, pend := p } k st) :=
  ⟨nextFrame_ne_failed _ h, ⟨rfl, rfl⟩, rfl, rfl, .inr ⟨⟨rfl, rfl⟩, rfl, rfl⟩⟩

theorem heldFrame_takeTriplets {s : State} (hst : s.st = .ccData) (w : List Nat) (k : Nat) (cnt : BitVec 5)
    (l : List Triplet) : HeldFrame s (takeTriplets { s with warn := w } k cnt l) := by
  by_cases h : cnt.toNat ≤ l.length
  · rw [takeTriplets_last h]
    exact heldFrame_advance s w _ k (by decide)
  · rw [takeTriplets_more (Nat.not_le.1 h)]
    exact ⟨by simp [hst], ⟨rfl, rfl⟩, rfl, rfl, .inr ⟨⟨rfl, rfl⟩, rfl, rfl⟩⟩

theorem heldFrame_takeEntries {s : State} (hst : s.st = .serviceInfo) (w : List Nat) (k : Nat) (cnt : BitVec 5)
    (l : List SvcEntry) : HeldFrame s (takeEntries { s with warn := w } k cnt l) := by
  by_cases h : cnt.toNat ≤ l.length
  · rw [takeEntries_last h]
    exact heldFrame_advance s w _ k (by decide)
  · rw [takeEntries_more (Nat.not_le.1 h)]
    exact ⟨by simp [hst], ⟨rfl, rfl⟩, rfl, rfl, .inr ⟨⟨rfl, rfl⟩, rfl, rfl⟩⟩

/-- A wire element raises a decode-side kind, or it is held. -/
theorem WireStep.raised_or_held {c : Cfg} {s t : State} (h : WireStep c s t) :
    (∃ r, isDecodeKind r.kind = true ∧ t = raiseDecode c s r) ∨ HeldFrame s t := by
  cases h
  case raised r hdue hr => exact .inl ⟨r, isDecodeKind_of_runChecks hdue.raisesDecodeKind hr, rfl⟩
  case header hst w h => exact .inr (heldFrame_advance s w _ _ (by decide))
  case timeCode hst w t => exact .inr (heldFrame_advance s w _ _ (by decide))
  case ccHead hst _ w cnt => exact .inr (heldFrame_takeTriplets hst w _ _ _)
  case ccTriplet hst cnt l _ w t => exact .inr (heldFrame_takeTriplets hst w _ _ _)
  case svcHead hst _ w cnt => exact .inr (heldFrame_takeEntries hst w _ _ _)
  case svcEntry hst cnt l _ w e => exact .inr (heldFrame_takeEntries hst w _ _ _)
  case footer hst _ w p sum =>
    have hdone : (finishDecode c { s with warn := w } p (s.cur + c.ftrBytes) sum w).st ≠ .failed := by simp
    exact .inr ⟨hdone, ⟨rfl, rfl⟩, rfl, rfl, .inl rfl⟩

theorem takeTriplets_outside (s : State) (k : Nat) (cnt : BitVec 5) (l : List Triplet) :
    SameOutside s (takeTriplets s k cnt l) ∧ (takeTriplets s k cnt l).n = s.n ∧
      (takeTriplets s k cnt l).modeSample = s.modeSample := by
  unfold takeTriplets
  dsimp only
  split <;> exact ⟨sameOutside_refl s, rfl, rfl⟩

theorem takeEntries_outside (s : State) (k : Nat) (cnt : BitVec 5) (l : List SvcEntry) :
    SameOutside s (takeEntries s k cnt l) ∧ (takeEntries s k cnt l).n = s.n ∧
      (takeEntries s k cnt l).modeSample = s.modeSample := by
  unfold takeEntries
  dsimp only
  split <;> exact ⟨sameOutside_refl s, rfl, rfl⟩

/-- No wire element touches what lies outside the framer, nor the latched length and mode. -/
theorem WireStep.outside {c : Cfg} {s t : State} (h : WireStep c s t) :
    SameOutside s t ∧ t.n = s.n ∧ t.modeSample = s.modeSample := by
  cases h
  case ccHead hst _ w cnt => exact takeTriplets_outside { s with warn := w } _ _ _
  case ccTriplet hst cnt l _ w t => exact takeTriplets_outside { s with warn := w } _ _ _
  case svcHead hst _ w cnt => exact takeEntries_outside { s with warn := w } _ _ _
  case svcEntry hst cnt l _ w e => exact takeEntries_outside { s with warn := w } _ _ _
  all_goals exact ⟨sameOutside_refl s, rfl, rfl⟩

/-- Settles O55: an element that answers is due; it raises, or it is held. -/
theorem wireElementsFrame : Obligations.WireElementsFrame := by
  intro i s t hi h
  have hwire : WireStep cfg s t := wireStep_of_exec hi ((exec_eq_execWith i s).symm.trans h)
  obtain ⟨⟨hhost, hout, hresults⟩, hn, hmode⟩ := hwire.outside
  refine ⟨hhost, hout, hresults, hn, hmode, ?_⟩
  rcases hwire.raised_or_held with ⟨r, -, rfl⟩ | ⟨-, herr, hret, hdraws, hdone | ⟨hbank, hcons, hsum⟩⟩
  · exact .inl ⟨rfl, rfl, rfl, rfl, rfl⟩
  · exact .inr (.inl hdone)
  · exact .inr (.inr ⟨hbank, hcons, hsum, herr, hret, hdraws⟩)

/-! The reading operations. -/

/-- Settles O47: a reader hands its result back, or it raises. -/
theorem readersFrame : Obligations.ReadersFrame := by
  intro i s t hi h
  rcases readerStep_of_exec hi ((exec_eq_execWith i s).symm.trans h) with ⟨w, r⟩ | ⟨r, -⟩
  · exact .inl rfl
  · obtain ⟨hhost, hout, hresults⟩ := sameOutside_refl s
    exact .inr ⟨rfl, hhost, hout, hresults, rfl, rfl, rfl, rfl, rfl, rfl⟩

theorem ReaderStep.outside {c : Cfg} {s t : State} (h : ReaderStep c s t) : SameOutside s t := by
  cases h <;> exact sameOutside_refl s

/-! The two codec commands. -/

/-- DECODE ends as the packet function says. -/
theorem commandDecode_next {c : Cfg} {s t : State} (h : commandDecode c s = .next t) :
    t = endDecode c (startDecode c s) (decodePacket c s.mode (operandBytes s)) :=
  (Host.Outcome.next.inj ((commandDecode_eq c s).symm.trans h)).symm

theorem endDecode_outside (c : Cfg) (s : State) (x : Except Abort Decoded) :
    SameOutside s (endDecode c (startDecode c s) x) := by
  cases x <;> exact sameOutside_refl s

/-! Every instruction. -/

/-- Settles O60: of each kind of instruction the frame says what it may write. -/
theorem onlyTheOwnersWrite : Obligations.OnlyTheOwnersWrite := by
  intro c i s t h
  obtain ⟨hhost, -, -⟩ := sameOutside_refl s
  cases ran_of_exec h
  case wire hi h =>
    obtain ⟨⟨hhost, hout, hreport, hlast, hresult⟩, -, -⟩ := h.outside
    exact ⟨hhost, by simp [hi, hlast, hreport, hresult, hout]⟩
  case reader hi h =>
    obtain ⟨hhost, hout, hreport, hlast, hresult⟩ := h.outside
    have hst : t.st = .failed ∨ t.st = s.st := by cases h <;> simp [handBack]
    exact ⟨hhost, by simp [hi, hst, hlast, hreport, hresult, hout]⟩
  case emitter bytes hi => exact ⟨hhost, by simp [hi, emit, SameBank]⟩
  case decode hready h =>
    obtain rfl := commandDecode_next h
    obtain ⟨hhost, hout, hreport, hlast, hresult⟩ := endDecode_outside c s (decodePacket c s.mode (operandBytes s))
    exact ⟨hhost, by simp [hlast, hreport, hresult, hout]⟩
  case encode hready =>
    obtain ⟨hbank, -, hhost, hreport, hlast, hresult⟩ :=
      endEncode_startEncode_frame c s (encodePacket c (bankPkt c s.f))
    exact ⟨hhost, by simp [hlast, hreport, hresult, hbank]⟩
  all_goals exact ⟨hhost, by simp [SameOut, SameBank, markDone, finishChecksum, observe, forgetLast]⟩

end Sys2Proof.Machine
end

section
/-! The invariants of the machine: canonical buffers, a consistent failure status. -/

namespace Sys2Proof.Machine

open Sys2Proof.Safety

/-! Canonical buffers. -/

theorem memoryOk_iff (s : State) : memoryOk s = true ↔ memWf s.inMem = true ∧ memWf s.outMem = true := by
  simp [memoryOk]

/-- An instruction that leaves both buffers as they were keeps their form. -/
theorem memoryOk_of_sameOutside {s t : State} (h : SameOutside s t) (hs : memoryOk s = true) : memoryOk t = true := by
  obtain ⟨⟨-, -, -, hin, -⟩, ⟨hout, -⟩, -⟩ := h
  rwa [memoryOk_iff, hin, hout, ← memoryOk_iff]

/-- `OUT` is written by whole bytes only, from the old buffer or from an empty one. -/
theorem memoryOk_endEncode (c : Cfg) {s : State} (x : Except Raise (List Byte)) (hs : memoryOk s = true) :
    memoryOk (endEncode c (startEncode s) x) = true := by
  obtain ⟨hin, hout⟩ := (memoryOk_iff s).1 hs
  rw [memoryOk_iff]
  cases x
  · exact ⟨hin, memWriteBytes_wf rfl⟩
  · exact ⟨hin, memWriteBytes_wf hout⟩

theorem memoryOk_emit {s : State} (bytes : List Byte) (hs : memoryOk s = true) : memoryOk (emit s bytes) = true := by
  obtain ⟨hin, hout⟩ := (memoryOk_iff s).1 hs
  exact (memoryOk_iff _).2 ⟨hin, memWriteBytes_wf hout⟩

theorem memoryOk_exec {c : Cfg} {i : Instr} {s t : State} (hs : memoryOk s = true) (h : execWith c i s = .next t) :
    memoryOk t = true := by
  cases ran_of_exec h
  case wire hi h => exact memoryOk_of_sameOutside h.outside.1 hs
  case reader hi h => exact memoryOk_of_sameOutside h.outside hs
  case emitter bytes hi => exact memoryOk_emit bytes hs
  case decode hready h =>
    obtain rfl := commandDecode_next h
    exact memoryOk_of_sameOutside (endDecode_outside c s _) hs
  case encode hready => exact memoryOk_endEncode c _ hs
  all_goals exact hs

/-- Settles O57: only ENCODE and the emitters write a buffer, and they write whole bytes. -/
theorem memoryStaysCanonical : Obligations.MemoryStaysCanonical :=
  ⟨fun _ _ _ _ hs h => memoryOk_exec hs h, fun s _ hs h => memoryOk_exec hs ((step_eq_stepWith s).symm.trans h)⟩

/-! The failure status. -/

/-- The status of the decode side: `Failed` with a kind that a decode raises, or no failure. -/
def DecodeStatus (t : State) : Prop :=
  t.st = .failed ∧ isDecodeKind t.errKind = true ∨ t.st ≠ .failed ∧ t.errKind = .none ∧ t.errOff = 0

theorem isDecodeKind_iff (k : ErrKind) : isDecodeKind k = true ↔ k ≠ .none ∧ k ≠ .inconsistentFlags := by
  simp [isDecodeKind]

theorem DecodeStatus.statusOk {t : State} (h : DecodeStatus t) : StatusOk t := by
  rcases h with ⟨hst, hkind⟩ | ⟨hst, hkind, hoff⟩
  · have hnone := ((isDecodeKind_iff _).1 hkind).1
    exact ⟨iff_of_true hst hnone, fun h => absurd h hnone⟩
  · exact ⟨iff_of_false hst (not_not.2 hkind), fun _ => hoff⟩

theorem kindShown_of_statusOk {t : State} (h : StatusOk t) : KindShown t :=
  ⟨h.1.2, h.2⟩

theorem decodeStatus_raiseDecode (c : Cfg) (s : State) {r : Raise} (h : isDecodeKind r.kind = true) :
    DecodeStatus (raiseDecode c s r) :=
  .inl ⟨rfl, h⟩

/-- Outside `Failed` no kind is shown. -/
theorem clear_of_kindShown {s : State} (h : KindShown s) (hst : s.st ≠ .failed) : s.errKind = .none ∧ s.errOff = 0 := by
  have hnone : s.errKind = .none := by_contra fun hk => hst (h.1 hk)
  exact ⟨hnone, h.2 hnone⟩

/-- A wire element is due only while a decode runs. -/
theorem WireStep.busy {c : Cfg} {s t : State} (h : WireStep c s t) : busy s = true := by
  cases h
  case raised hdue _ => exact busy_of_dueChecks hdue
  all_goals simp [Machine.busy, *]

theorem ne_failed_of_busy {s : State} (h : busy s = true) : s.st ≠ .failed := by
  intro hst
  simp [busy, hst] at h

/-- A wire element leaves a status of the decode side. -/
theorem WireStep.decodeStatus {c : Cfg} {s t : State} (h : WireStep c s t) (hs : KindShown s) : DecodeStatus t := by
  obtain ⟨hkind, hoff⟩ := clear_of_kindShown hs (ne_failed_of_busy h.busy)
  rcases h.raised_or_held with ⟨r, hr, rfl⟩ | ⟨hst, ⟨hk, ho⟩, -⟩
  · exact decodeStatus_raiseDecode c s hr
  · exact .inr ⟨hst, hk.trans hkind, ho.trans hoff⟩

/-- DECODE leaves a status of the decode side: its small steps do. -/
theorem decodeStatus_commandDecode {c : Cfg} {s t : State} (h : commandDecode c s = .next t) : DecodeStatus t := by
  obtain rfl := commandDecode_next h
  have hstart : DecodeStatus (startDecode c s) := .inr ⟨by simp, rfl, rfl⟩
  refine runFramer_invariant (fun u v hbusy hu hstep => ?_) hstart (runFramer_of_endsIn (endsIn_startDecode c s))
  obtain ⟨v', hnext, hwire⟩ := stepWith_busy c hbusy
  cases hnext.symm.trans hstep
  exact hwire.decodeStatus (kindShown_of_statusOk hu.statusOk)

/-- The status ENCODE leaves: `Done` without a failure, or one of its three kinds at offset 0. -/
theorem endEncode_status (c : Cfg) (s : State) (p : Pkt) :
    let t := endEncode c (startEncode s) (encodePacket c p)
    (t.st = .done ∧ t.errKind = .none ∧ t.errOff = 0) ∨
      (t.st = .failed ∧ t.errOff = 0 ∧
        (t.errKind = .invalidFrameRate ∨ t.errKind = .countOverflow ∨ t.errKind = .inconsistentFlags)) := by
  unfold encodePacket
  rcases hchecks : runChecks .strict [] (encodeChecks c p) with r | w
  · have hr := runChecks_error hchecks
    simp only [encodeChecks, List.mem_cons, Check.must.injEq, reduceCtorEq, List.not_mem_nil, or_false, and_false] at hr
    refine .inr ⟨rfl, ?_, ?_⟩ <;> simp only [endEncode, failEncode_errOff, failEncode_errKind] <;> tauto
  · exact .inl ⟨rfl, rfl, rfl⟩

theorem statusOk_endEncode (c : Cfg) (s : State) (p : Pkt) :
    StatusOk (endEncode c (startEncode s) (encodePacket c p)) := by
  rcases endEncode_status c s p with ⟨hst, hkind, hoff⟩ | ⟨hst, -, hkind⟩
  · exact ⟨by simp [hst, hkind], fun _ => hoff⟩
  · rcases hkind with hkind | hkind | hkind <;> exact ⟨by simp [hst, hkind], by simp [hkind]⟩

/-- Every instruction but CK_VALIDATE keeps the status consistent, once no kind is shown outside `Failed`. -/
theorem status_exec {c : Cfg} {i : Instr} {s t : State} (hs : KindShown s) (h : execWith c i s = .next t) :
    KindShown t ∧ (i ≠ .ckValidate → StatusOk s → StatusOk t) := by
  cases ran_of_exec h
  case wire hi h =>
    have hok := (h.decodeStatus hs).statusOk
    exact ⟨kindShown_of_statusOk hok, fun _ _ => hok⟩
  case reader hi h =>
    rcases h with ⟨w, r⟩ | ⟨r, hr⟩
    · exact ⟨hs, fun _ hok => hok⟩
    · have hok := (decodeStatus_raiseDecode c s hr).statusOk
      exact ⟨kindShown_of_statusOk hok, fun _ _ => hok⟩
  case decode hready h =>
    have hok := (decodeStatus_commandDecode h).statusOk
    exact ⟨kindShown_of_statusOk hok, fun _ _ => hok⟩
  case encode hready =>
    have hok := statusOk_endEncode c s (bankPkt c s.f)
    exact ⟨kindShown_of_statusOk hok, fun _ _ => hok⟩
  case ckCompute hready x =>
    have hok : StatusOk (markDone (finishChecksum s x)) := by simp [StatusOk, markDone, finishChecksum]
    exact ⟨kindShown_of_statusOk hok, fun _ _ => hok⟩
  case ckValidate hready x => exact ⟨by simp [KindShown, finishChecksum], fun hne => absurd rfl hne⟩
  all_goals exact ⟨hs, fun _ hok => hok⟩

/-- Settles O58: a raise shows a kind and ends in `Failed`, every start of an operation clears both, and nothing else
writes them. -/
theorem failureStatusStaysConsistent : Obligations.FailureStatusStaysConsistent :=
  ⟨fun _ _ _ _ hs h => (status_exec hs h).1,
    fun s _ hs h => (status_exec hs ((step_eq_stepWith s).symm.trans h)).1,
    fun _ _ _ _ hi hs h => (status_exec (kindShown_of_statusOk hs) h).2 hi hs⟩

/-- Settles O17: DECODE leaves a status of the decode side and is not under way any more; ENCODE's checks name three kinds
and offset 0. -/
theorem failureKindsOfTheCommands : Obligations.FailureKindsOfTheCommands := by
  refine ⟨fun s t hready h => ?_, fun s t hready h => ?_⟩
  · have hrun : commandDecode cfg s = .next t := (whenReady_ready hready).symm.trans h
    have hend : t.st = .done ∨ t.st = .failed := by
      obtain rfl := commandDecode_next hrun
      cases decodePacket cfg s.mode (operandBytes s)
      · exact .inr rfl
      · exact .inl rfl
    rcases decodeStatus_commandDecode hrun with ⟨hst, hkind⟩ | ⟨hst, hkind, hoff⟩
    · exact .inr ⟨hst, (isDecodeKind_iff _).1 hkind⟩
    · exact .inl ⟨hend.resolve_right hst, hkind, hoff⟩
  · cases (exec_encode_ready hready).symm.trans h
    exact endEncode_status cfg s (bankPkt cfg s.f)

end Sys2Proof.Machine
end

section
/-! Bytes, fields of bytes, and the elements of the wire byte for byte (spec/30_encoding.md R71 to R80). -/

namespace Sys2Proof.Machine

/-! Fields of one byte. -/

theorem bfExtract_singleton (b : Byte) (hi lo : Nat) :
    bfExtract [b] hi lo = b.toNat / 2 ^ lo % 2 ^ (hi - lo + 1) := by
  simp [bfExtract, beNat, Nat.shiftRight_eq_div_pow]

/-- A field of a byte as a number. -/
theorem byteField_toNat {w : Nat} {b : Byte} {hi lo : Nat} (hw : hi - lo + 1 = w) :
    (byteField w b hi lo).toNat = b.toNat / 2 ^ lo % 2 ^ w := by
  rw [byteField, bfExtract_singleton, hw, BitVec.toNat_ofNat, Nat.mod_mod]

theorem byteField_byte (b : Byte) : byteField 8 b 7 0 = b := by
  apply BitVec.eq_of_toNat_eq
  rw [byteField_toNat (by decide)]
  omega

theorem halfField_toNat (b0 b1 : Byte) : (halfField b0 b1).toNat = b0.toNat * 256 + b1.toNat := by
  simp only [halfField, bfExtract, beNat, List.foldl, Nat.shiftRight_zero, BitVec.toNat_ofNat]
  omega

theorem toNat_append_eq {n m : Nat} (a : BitVec n) (b : BitVec m) : (a ++ b).toNat = a.toNat * 2 ^ m + b.toNat := by
  rw [BitVec.toNat_append, ← Nat.shiftLeft_add_eq_or_of_lt b.isLt, Nat.shiftLeft_eq]

theorem toNat_append_three {n m k : Nat} (a : BitVec n) (b : BitVec m) (d : BitVec k) :
    (a ++ b ++ d).toNat = (a.toNat * 2 ^ m + b.toNat) * 2 ^ k + d.toNat := by
  rw [toNat_append_eq, toNat_append_eq]

theorem toNat_high (v : Half) : (v.extractLsb' 8 8).toNat = v.toNat / 256 := by
  rw [BitVec.extractLsb'_toNat, Nat.shiftRight_eq_div_pow]
  omega

theorem toNat_low (v : Half) : (v.extractLsb' 0 8).toNat = v.toNat % 256 := by
  rw [BitVec.extractLsb'_toNat, Nat.shiftRight_zero]

theorem halfField_high_low (v : Half) : halfField (v.extractLsb' 8 8) (v.extractLsb' 0 8) = v := by
  apply BitVec.eq_of_toNat_eq
  rw [halfField_toNat, toNat_high, toNat_low]
  omega

theorem high_halfField (b0 b1 : Byte) : (halfField b0 b1).extractLsb' 8 8 = b0 := by
  apply BitVec.eq_of_toNat_eq
  rw [toNat_high, halfField_toNat]
  omega

theorem low_halfField (b0 b1 : Byte) : (halfField b0 b1).extractLsb' 0 8 = b1 := by
  apply BitVec.eq_of_toNat_eq
  rw [toNat_low, halfField_toNat]
  omega

/-! Bytes packed of fields. -/

/-- One byte packed of fields is their concatenation, where that is as wide as a byte and has their sum as its number. -/
theorem bfPack_one {x : Byte} {fs : List FieldVal} (h : bfPackValue fs = x.toNat) : bfPack 1 fs = [x] := by
  simp [bfPack, toBE, h]

theorem bfPack_byte (v : Byte) : bfPack 1 [fieldVal 7 0 v] = [v] :=
  bfPack_one (by simp [bfPackValue, fieldVal])

theorem bfPack_half (v : Half) : bfPack 2 [fieldVal 15 0 v] = [v.extractLsb' 8 8, v.extractLsb' 0 8] := by
  have hhigh : BitVec.ofNat 8 (v.toNat / 256) = v.extractLsb' 8 8 := by
    apply BitVec.eq_of_toNat_eq
    rw [toNat_high, BitVec.toNat_ofNat]
    omega
  have hlow : BitVec.ofNat 8 v.toNat = v.extractLsb' 0 8 := by
    apply BitVec.eq_of_toNat_eq
    rw [toNat_low, BitVec.toNat_ofNat]
  simp [bfPack, toBE, bfPackValue, fieldVal, hhigh, hlow]

/-- Two fields that make a byte. -/
theorem bfPack_two {n m : Nat} (h : n + m = 8) (hi hi' : Nat) (a : BitVec n) (b : BitVec m) :
    bfPack 1 [fieldVal hi m a, fieldVal hi' 0 b] = [(a ++ b).cast h] := by
  refine bfPack_one ?_
  simp only [bfPackValue, fieldVal, List.map, List.sum_cons, List.sum_nil, BitVec.toNat_cast, toNat_append_eq,
    Nat.shiftLeft_eq]
  omega

/-- Three fields that make a byte. -/
theorem bfPack_three {n m k : Nat} (h : n + m + k = 8) (hi hi' hi'' : Nat) (a : BitVec n) (b : BitVec m)
    (d : BitVec k) :
    bfPack 1 [fieldVal hi (m + k) a, fieldVal hi' k b, fieldVal hi'' 0 d] = [(a ++ b ++ d).cast h] := by
  refine bfPack_one ?_
  simp only [bfPackValue, fieldVal, List.map, List.sum_cons, List.sum_nil, BitVec.toNat_cast, toNat_append_eq,
    Nat.shiftLeft_eq, pow_add]
  ring

/-- Header byte 4: the seven flags and the reserved bit (spec/30_encoding.md R73). -/
def flagsByte (fl : Flags) (rsv : Bit) : Byte :=
  fl.tc ++ fl.cc ++ fl.svc ++ fl.start ++ fl.change ++ fl.complete ++ fl.active ++ rsv

theorem flagsByte_toNat (fl : Flags) (rsv : Bit) :
    (flagsByte fl rsv).toNat = fl.tc.toNat * 128 + fl.cc.toNat * 64 + fl.svc.toNat * 32 + fl.start.toNat * 16 +
      fl.change.toNat * 8 + fl.complete.toNat * 4 + fl.active.toNat * 2 + rsv.toNat := by
  simp only [flagsByte, toNat_append_eq]
  omega

theorem bfPack_flags (fl : Flags) (rsv : Bit) :
    bfPack 1 [fieldVal 7 7 fl.tc, fieldVal 6 6 fl.cc, fieldVal 5 5 fl.svc, fieldVal 4 4 fl.start,
      fieldVal 3 3 fl.change, fieldVal 2 2 fl.complete, fieldVal 1 1 fl.active, fieldVal 0 0 rsv] =
      [flagsByte fl rsv] := by
  refine bfPack_one ?_
  simp only [bfPackValue, fieldVal, List.map, List.sum_cons, List.sum_nil, flagsByte_toNat, Nat.shiftLeft_eq]
  omega

/-! The elements as their bytes. -/

theorem encodeHeader_eq (e : HeaderEl) :
    encodeHeader e = [e.magic.extractLsb' 8 8, e.magic.extractLsb' 0 8, e.len, e.fr ++ e.rsv,
      flagsByte e.flags e.flagsRsv, e.hseq.extractLsb' 8 8, e.hseq.extractLsb' 0 8] := by
  simp only [encodeHeader, bfPack_half, bfPack_byte, bfPack_two (n := 4) (m := 4) rfl, bfPack_flags]
  rfl

theorem encodeTimeCode_eq (e : TimeCodeEl) :
    encodeTimeCode e = [e.id, e.mkH ++ e.tc.h, e.mkM ++ e.tc.m, e.tc.ff ++ e.tc.s, e.tc.df ++ e.mkF ++ e.tc.f] := by
  simp only [encodeTimeCode, bfPack_byte, bfPack_two (n := 2) (m := 6) rfl, bfPack_two (n := 1) (m := 7) rfl,
    bfPack_three (n := 1) (m := 1) (k := 6) rfl]
  rfl

theorem encodeCountHead_eq (e : CountHeadEl) : encodeCountHead e = [e.id, e.marker ++ e.count] := by
  simp only [encodeCountHead, bfPack_byte, bfPack_two (n := 3) (m := 5) rfl]
  rfl

theorem encodeTriplet_eq (e : TripletEl) :
    encodeTriplet e = ([e.marker ++ e.t.valid ++ e.t.ccType, e.t.d1, e.t.d2] : List Byte) := by
  simp only [encodeTriplet, bfPack_byte, bfPack_three (n := 5) (m := 1) (k := 2) rfl]
  rfl

/-- A service entry of the configuration's width is its number and its attributes. -/
theorem encodeSvcEntry_eq {c : Cfg} {e : SvcEntry} (h : wfSvcEntry c e = true) : encodeSvcEntry c e = e.sn :: e.attr := by
  have hw : e.attr.length ≤ c.svcEntryBytes - 1 := by
    simp only [wfSvcEntry, beq_iff_eq] at h
    omega
  simp only [encodeSvcEntry, bfPack_byte, List.take_of_length_le hw, List.flatMap_singleton', List.singleton_append]

theorem encodeFooterHead_eq (e : FooterEl) :
    encodeFooterHead e = [e.id, e.fseq.extractLsb' 8 8, e.fseq.extractLsb' 0 8] := by
  simp only [encodeFooterHead, bfPack_byte, bfPack_half]
  rfl

theorem encodeFooter_eq (e : FooterEl) :
    encodeFooter e = [e.id, e.fseq.extractLsb' 8 8, e.fseq.extractLsb' 0 8, e.cksum] := by
  simp only [encodeFooter, encodeFooterHead_eq, bfPack_byte]
  rfl

end Sys2Proof.Machine
end

section
/-! Parsing what was packed, and packing what was parsed: no bit of an element is lost (spec/30_encoding.md R81). -/

namespace Sys2Proof.Machine

open Sys2Proof.Laws.EncodedLength (legal_sizes)

@[simp] theorem byteAt_zero (b : Byte) (l : List Byte) : byteAt (b :: l) 0 = b := rfl

@[simp] theorem byteAt_succ (b : Byte) (l : List Byte) (i : Nat) : byteAt (b :: l) (i + 1) = byteAt l i := rfl

/-- A field of a byte, by its number. -/
theorem byteField_eq {w : Nat} {b : Byte} {hi lo : Nat} {v : BitVec w} (hw : hi - lo + 1 = w)
    (h : b.toNat / 2 ^ lo % 2 ^ w = v.toNat) : byteField w b hi lo = v :=
  BitVec.eq_of_toNat_eq ((byteField_toNat hw).trans h)

/-! Parsing what was packed. -/

theorem parseFlags_flagsByte (fl : Flags) (rsv : Bit) :
    parseFlags (flagsByte fl rsv) = fl ∧ byteField 1 (flagsByte fl rsv) 0 0 = rsv := by
  obtain ⟨tc, cc, svc, start, change, complete, active⟩ := fl
  have hbyte := flagsByte_toNat ⟨tc, cc, svc, start, change, complete, active⟩ rsv
  simp only [parseFlags, Flags.mk.injEq]
  refine ⟨⟨?_, ?_, ?_, ?_, ?_, ?_, ?_⟩, ?_⟩ <;> refine byteField_eq (by decide) ?_ <;> dsimp only at hbyte <;> omega

theorem parseHeader_encodeHeader (e : HeaderEl) : parseHeader (encodeHeader e) = e := by
  have hflags := parseFlags_flagsByte e.flags e.flagsRsv
  have hbyte : (e.fr ++ e.rsv : Byte).toNat = e.fr.toNat * 16 + e.rsv.toNat := toNat_append_eq _ _
  have hfr : byteField 4 (e.fr ++ e.rsv) 7 4 = e.fr := byteField_eq (by decide) (by omega)
  have hrsv : byteField 4 (e.fr ++ e.rsv) 3 0 = e.rsv := byteField_eq (by decide) (by omega)
  rw [encodeHeader_eq]
  simp only [parseHeader, byteAt_zero, byteAt_succ, halfField_high_low, byteField_byte, hflags, hfr, hrsv]

theorem parseTimeCode_encodeTimeCode (e : TimeCodeEl) : parseTimeCode (encodeTimeCode e) = e := by
  obtain ⟨id, mkH, mkM, mkF, ⟨h, m, ff, s, df, f⟩⟩ := e
  have h1 : (mkH ++ h : Byte).toNat = mkH.toNat * 64 + h.toNat := toNat_append_eq _ _
  have h2 : (mkM ++ m : Byte).toNat = mkM.toNat * 128 + m.toNat := toNat_append_eq _ _
  have h3 : (ff ++ s : Byte).toNat = ff.toNat * 128 + s.toNat := toNat_append_eq _ _
  have h4 : (df ++ mkF ++ f : Byte).toNat = (df.toNat * 2 + mkF.toNat) * 64 + f.toNat := toNat_append_three _ _ _
  rw [encodeTimeCode_eq]
  simp only [parseTimeCode, byteAt_zero, byteAt_succ, byteField_byte, TimeCodeEl.mk.injEq, TimeCode.mk.injEq, true_and]
  refine ⟨?_, ?_, ?_, ?_, ?_, ?_, ?_, ?_, ?_⟩ <;> refine byteField_eq (by decide) ?_ <;> omega

theorem parseCountHead_encodeCountHead (e : CountHeadEl) : parseCountHead (encodeCountHead e) = e := by
  obtain ⟨id, marker, count⟩ := e
  have hbyte : (marker ++ count : Byte).toNat = marker.toNat * 32 + count.toNat := toNat_append_eq _ _
  rw [encodeCountHead_eq]
  simp only [parseCountHead, byteAt_zero, byteAt_succ, byteField_byte, CountHeadEl.mk.injEq, true_and]
  refine ⟨?_, ?_⟩ <;> refine byteField_eq (by decide) ?_ <;> omega

theorem parseTriplet_encodeTriplet (e : TripletEl) : parseTriplet (encodeTriplet e) = e := by
  obtain ⟨marker, ⟨valid, ccType, d1, d2⟩⟩ := e
  have hbyte : (marker ++ valid ++ ccType : Byte).toNat = (marker.toNat * 2 + valid.toNat) * 4 + ccType.toNat :=
    toNat_append_three _ _ _
  rw [encodeTriplet_eq]
  simp only [parseTriplet, byteAt_zero, byteAt_succ, byteField_byte, TripletEl.mk.injEq, Triplet.mk.injEq, and_true]
  refine ⟨?_, ?_, ?_⟩ <;> refine byteField_eq (by decide) ?_ <;> omega

/-- The attributes of a service entry are the bytes behind its number. -/
theorem parseSvcEntry_cons {c : Cfg} {sn : Byte} {l : List Byte} (h : l.length = c.svcEntryBytes - 1) :
    parseSvcEntry c (sn :: l) = ⟨sn, l⟩ := by
  have hattr : (List.range (c.svcEntryBytes - 1)).map (fun k => byteField 8 (byteAt (sn :: l) (1 + k)) 7 0) = l := by
    refine List.ext_getElem (by simp [h]) fun i h1 h2 => ?_
    simp [byteField_byte, Nat.add_comm 1, byteAt, h2]
  rw [parseSvcEntry, hattr, byteAt_zero, byteField_byte]

theorem parseSvcEntry_encodeSvcEntry {c : Cfg} {e : SvcEntry} (h : wfSvcEntry c e = true) :
    parseSvcEntry c (encodeSvcEntry c e) = e := by
  have hw : e.attr.length + 1 = c.svcEntryBytes := beq_iff_eq.1 h
  rw [encodeSvcEntry_eq h, parseSvcEntry_cons (by omega)]

theorem parseFooter_encodeFooter (e : FooterEl) : parseFooter (encodeFooter e) = e := by
  rw [encodeFooter_eq]
  simp only [parseFooter, byteAt_zero, byteAt_succ, halfField_high_low, byteField_byte]

/-! Packing what was parsed. -/

/-- The first bytes of a list, one by one. -/
theorem take_eq_map_byteAt {k : Nat} {b : List Byte} (h : k ≤ b.length) : b.take k = (List.range k).map (byteAt b) := by
  refine List.ext_getElem (by simp [h]) fun i h1 h2 => ?_
  have hi : i < b.length := by simp at h1; omega
  simp [byteAt, hi]

theorem flagsByte_parseFlags (b : Byte) : flagsByte (parseFlags b) (byteField 1 b 0 0) = b := by
  apply BitVec.eq_of_toNat_eq
  rw [flagsByte_toNat]
  simp only [parseFlags]
  repeat rw [byteField_toNat (by decide)]
  omega

theorem encodeHeader_parseHeader {b : List Byte} (h : 7 ≤ b.length) : encodeHeader (parseHeader b) = b.take 7 := by
  have hb3 : (byteField 4 (byteAt b 3) 7 4 ++ byteField 4 (byteAt b 3) 3 0 : Byte) = byteAt b 3 := by
    apply BitVec.eq_of_toNat_eq
    refine (toNat_append_eq _ _).trans ?_
    rw [byteField_toNat (by decide), byteField_toNat (by decide)]
    omega
  rw [encodeHeader_eq, take_eq_map_byteAt h]
  simp only [parseHeader, high_halfField, low_halfField, byteField_byte, hb3, flagsByte_parseFlags]
  rfl

theorem encodeTimeCode_parseTimeCode {b : List Byte} (h : 5 ≤ b.length) :
    encodeTimeCode (parseTimeCode b) = b.take 5 := by
  have hb1 : (byteField 2 (byteAt b 1) 7 6 ++ byteField 6 (byteAt b 1) 5 0 : Byte) = byteAt b 1 := by
    apply BitVec.eq_of_toNat_eq
    refine (toNat_append_eq _ _).trans ?_
    rw [byteField_toNat (by decide), byteField_toNat (by decide)]
    omega
  have hone : ∀ x : Byte, (byteField 1 x 7 7 ++ byteField 7 x 6 0 : Byte) = x := fun x => by
    apply BitVec.eq_of_toNat_eq
    refine (toNat_append_eq _ _).trans ?_
    rw [byteField_toNat (by decide), byteField_toNat (by decide)]
    omega
  have hb4 : (byteField 1 (byteAt b 4) 7 7 ++ byteField 1 (byteAt b 4) 6 6 ++ byteField 6 (byteAt b 4) 5 0 : Byte) =
      byteAt b 4 := by
    apply BitVec.eq_of_toNat_eq
    refine (toNat_append_three _ _ _).trans ?_
    rw [byteField_toNat (by decide), byteField_toNat (by decide), byteField_toNat (by decide)]
    omega
  rw [encodeTimeCode_eq, take_eq_map_byteAt h]
  simp only [parseTimeCode, byteField_byte, hb1, hone, hb4]
  rfl

theorem encodeCountHead_parseCountHead {b : List Byte} (h : 2 ≤ b.length) :
    encodeCountHead (parseCountHead b) = b.take 2 := by
  have hb1 : (byteField 3 (byteAt b 1) 7 5 ++ byteField 5 (byteAt b 1) 4 0 : Byte) = byteAt b 1 := by
    apply BitVec.eq_of_toNat_eq
    refine (toNat_append_eq _ _).trans ?_
    rw [byteField_toNat (by decide), byteField_toNat (by decide)]
    omega
  rw [encodeCountHead_eq, take_eq_map_byteAt h]
  simp only [parseCountHead, byteField_byte, hb1]
  rfl

theorem encodeTriplet_parseTriplet {b : List Byte} (h : 3 ≤ b.length) : encodeTriplet (parseTriplet b) = b.take 3 := by
  have hb0 : (byteField 5 (byteAt b 0) 7 3 ++ byteField 1 (byteAt b 0) 2 2 ++ byteField 2 (byteAt b 0) 1 0 : Byte) =
      byteAt b 0 := by
    apply BitVec.eq_of_toNat_eq
    refine (toNat_append_three _ _ _).trans ?_
    rw [byteField_toNat (by decide), byteField_toNat (by decide), byteField_toNat (by decide)]
    omega
  rw [encodeTriplet_eq, take_eq_map_byteAt h]
  simp only [parseTriplet, byteField_byte, hb0]
  rfl

/-- A service entry is parsed with the configuration's width. -/
theorem wfSvcEntry_parseSvcEntry {c : Cfg} (hc : 1 ≤ c.svcEntryBytes) (b : List Byte) :
    wfSvcEntry c (parseSvcEntry c b) = true := by
  simp only [wfSvcEntry, parseSvcEntry, List.length_map, List.length_range, beq_iff_eq]
  omega

theorem encodeSvcEntry_parseSvcEntry {c : Cfg} {b : List Byte} (hc : 1 ≤ c.svcEntryBytes)
    (h : c.svcEntryBytes ≤ b.length) : encodeSvcEntry c (parseSvcEntry c b) = b.take c.svcEntryBytes := by
  obtain ⟨k, hk⟩ := Nat.exists_eq_add_of_le' hc
  rw [encodeSvcEntry_eq (wfSvcEntry_parseSvcEntry hc b), take_eq_map_byteAt h, hk, List.range_succ_eq_map]
  simp [parseSvcEntry, byteField_byte, hk, Function.comp_def, Nat.add_comm 1]

theorem encodeFooter_parseFooter {b : List Byte} (h : 4 ≤ b.length) : encodeFooter (parseFooter b) = b.take 4 := by
  rw [encodeFooter_eq, take_eq_map_byteAt h]
  simp only [parseFooter, high_halfField, low_halfField, byteField_byte]
  rfl

/-! The decoder and the encoder of the opcode table. -/

/-- Bytes that fill their slot, and on the port hold a code, decode to what they are parsed as, when that is well
formed. -/
theorem decodeAt_ok {c : Cfg} {slot : Slot} {b : List Byte} {i : Instr} :
    decodeAt c slot b = .ok i ↔
      slotLen c slot ≤ b.length ∧ (slot = .port → (byteAt b 0).toNat < 8) ∧ parseAt c slot b = i ∧
        wellFormed c i = true := by
  unfold decodeAt
  split_ifs with hshort hcode hwf
  · exact iff_of_false (by simp) fun h => absurd h.1 (Nat.not_le.2 hshort)
  · exact iff_of_false (by simp) fun h => absurd (h.2.1 hcode.1) (Nat.not_lt.2 hcode.2)
  · have hport : slot = .port → (byteAt b 0).toNat < 8 := fun hp => Nat.not_le.1 fun h8 => hcode ⟨hp, h8⟩
    constructor
    · rintro ⟨rfl⟩
      exact ⟨Nat.not_lt.1 hshort, hport, rfl, hwf⟩
    · rintro ⟨-, -, rfl, -⟩
      rfl
  · exact iff_of_false (by simp) fun ⟨_, _, hparse, h⟩ => hwf (hparse ▸ h)

/-- The bytes of an encodable instruction are parsed as it, and on the port they are a code. -/
theorem parseAt_encode {c : Cfg} {i : Instr} {slot : Slot} {b : List Byte} (hw : wellFormed c i = true)
    (h : encode c i = some (slot, b)) : parseAt c slot b = i ∧ (slot = .port → (byteAt b 0).toNat < 8) := by
  cases i
  case header e =>
    cases h
    exact ⟨congrArg Instr.header (parseHeader_encodeHeader e), by simp⟩
  case timecode e =>
    cases h
    exact ⟨congrArg Instr.timecode (parseTimeCode_encodeTimeCode e), by simp⟩
  case ccdataHead e =>
    cases h
    exact ⟨congrArg Instr.ccdataHead (parseCountHead_encodeCountHead e), by simp⟩
  case ccTriplet e =>
    cases h
    exact ⟨congrArg Instr.ccTriplet (parseTriplet_encodeTriplet e), by simp⟩
  case svcinfoHead e =>
    cases h
    exact ⟨congrArg Instr.svcinfoHead (parseCountHead_encodeCountHead e), by simp⟩
  case svcEntry e =>
    cases h
    exact ⟨congrArg Instr.svcEntry (parseSvcEntry_encodeSvcEntry hw), by simp⟩
  case footer e =>
    cases h
    exact ⟨congrArg Instr.footer (parseFooter_encodeFooter e), by simp⟩
  case nop | decode | encode | ckCompute | ckValidate | seqObserve | seqReset | reservedCmd7 =>
    cases h
    exact ⟨rfl, fun _ => by decide⟩
  all_goals cases h

/-- The bytes of a well-formed encodable instruction fill its slot. -/
theorem encode_length {c : Cfg} {i : Instr} {slot : Slot} {b : List Byte} (hc : c.legal = true)
    (hw : wellFormed c i = true) (h : encode c i = some (slot, b)) : b.length = slotLen c slot := by
  cases i
  case header e => exact Laws.EncodedLength.header e c slot b hc hw h
  case timecode e => exact Laws.EncodedLength.timecode e c slot b hc hw h
  case ccdataHead e => exact Laws.EncodedLength.ccdataHead e c slot b hc hw h
  case ccTriplet e => exact Laws.EncodedLength.ccTriplet e c slot b hc hw h
  case svcinfoHead e => exact Laws.EncodedLength.svcinfoHead e c slot b hc hw h
  case svcEntry e => exact Laws.EncodedLength.svcEntry e c slot b hc hw h
  case footer e => exact Laws.EncodedLength.footer e c slot b hc hw h
  case nop | decode | encode | ckCompute | ckValidate | seqObserve | seqReset | reservedCmd7 =>
    cases h
    rfl
  all_goals cases h

/-- Settles O3: the encoding fills its slot, and it is parsed as the instruction. -/
theorem decodeOfEncodeIsTheInstruction : Obligations.DecodeOfEncodeIsTheInstruction := by
  intro c i slot b hc hw h
  have hlen := encode_length hc hw h
  obtain ⟨hparse, hport⟩ := parseAt_encode hw h
  exact ⟨decodeAt_ok.2 ⟨hlen.ge, hport, hparse, hw⟩, hlen⟩

/-- The code of a command is its number. -/
theorem encode_parseCmd (c : Cfg) (code : BitVec 3) :
    encode c (parseCmd code) = some (.port, [BitVec.ofNat 8 code.toNat]) := by
  have hcode := code.isLt
  unfold parseCmd
  interval_cases code.toNat <;> rfl

/-- Settles O4: of every slot, the fields of its bytes are packed as they stood. -/
theorem encodeOfDecodeIsTheBytes : Obligations.EncodeOfDecodeIsTheBytes := by
  intro c i slot b hc h
  obtain ⟨hlen, hport, rfl, -⟩ := decodeAt_ok.1 h
  obtain ⟨h1, h2, h3, h4, h5⟩ := legal_sizes hc
  cases slot <;> simp only [slotLen, h1, h2, h3, h4] at hlen ⊢
  case port =>
    have hcode : BitVec.ofNat 8 (byteField 3 (byteAt b 0) 2 0).toNat = byteAt b 0 := by
      have hlt := hport rfl
      apply BitVec.eq_of_toNat_eq
      rw [byteField_toNat (by decide), BitVec.toNat_ofNat]
      omega
    rw [parseAt, encode_parseCmd, hcode, take_eq_map_byteAt hlen]
    rfl
  case header => rw [parseAt, encode, encodeHeader_parseHeader hlen]
  case timeCode => rw [parseAt, encode, encodeTimeCode_parseTimeCode hlen]
  case ccHead => rw [parseAt, encode, encodeCountHead_parseCountHead hlen]
  case ccTriplet => rw [parseAt, encode, encodeTriplet_parseTriplet hlen]
  case svcHead => rw [parseAt, encode, encodeCountHead_parseCountHead hlen]
  case svcEntry => rw [parseAt, encode, encodeSvcEntry_parseSvcEntry h5 hlen]
  case footer => rw [parseAt, encode, encodeFooter_parseFooter hlen]

end Sys2Proof.Machine
end

section
/-! The bit-field codec (spec/40_bitfield_codec.md R100 to R103). -/

namespace Sys2Proof.Machine

open Sys2Proof.Safety (FailsWith)

/-! BF.EXTRACT. -/

theorem bfExtract_lt (span : List Byte) (hi lo : Nat) : bfExtract span hi lo < 2 ^ (hi - lo + 1) :=
  Nat.mod_lt _ (Nat.two_pow_pos _)

/-- Bit `i` of a field is bit `lo + i` of the span. -/
theorem testBit_bfExtract (span : List Byte) (hi lo i : Nat) :
    (bfExtract span hi lo).testBit i = (decide (i < hi - lo + 1) && (beNat span).testBit (lo + i)) := by
  rw [bfExtract, Nat.testBit_mod_two_pow, Nat.testBit_shiftRight]

theorem exec_bfExtract {span : List Byte} {hi lo : Nat} (h : wfExtract span hi lo = true) (s : State) :
    exec (.bfExtract span hi lo) s = .next { s with ret := .value (bfExtract span hi lo) } := by
  show withinContract _ _ = _
  rw [h]
  rfl

/-- Settles O37: the bits of the field are those of the shifted span below the field's width. -/
theorem bfExtractTakesTheField : Obligations.BfExtractTakesTheField := by
  intro s span hi lo hle hlt
  have hwf : wfExtract span hi lo = true := by simp [wfExtract, fieldOk, hle, hlt]
  refine ⟨bfExtract span hi lo, exec_bfExtract hwf s, bfExtract_lt span hi lo, fun i hi => ?_⟩
  simp [testBit_bfExtract, Nat.lt_succ_of_le hi]

/-! BF.CHKRSV. -/

theorem exec_bfChkrsv {span : List Byte} {hi lo const : Nat} (h : wfChkrsv span hi lo const = true) (off : Nat)
    (s : State) :
    exec (.bfChkrsv span hi lo const off) s =
      checkStep cfg s [.rsv (bfExtract span hi lo == const) off] fun w => { s with warn := w } := by
  show withinContract _ _ = _
  rw [h]
  rfl

/-- Settles O39: one check of a reserved field, under the mode in force. -/
theorem bfChkrsvAppliesThePolicy : Obligations.BfChkrsvAppliesThePolicy := by
  refine ⟨fun s => rfl, fun s span hi lo const off hwf => ⟨fun heq => ?_, fun hne hm => ?_, fun hne hm => ?_⟩⟩
  all_goals rw [exec_bfChkrsv hwf, checkStep]
  · simp [heq]
  · replace hm : effMode s = .strict := hm
    simp only [hm, beq_false_of_ne hne, runChecks_rsv_strict_false]
    exact failsWith_raiseDecode ..
  · replace hm : effMode s = .lenient := hm
    simp [hm, beq_false_of_ne hne]

/-! BF.PACK: the sum of values that tile a span is their union, bit by bit. -/

/-- Numbers without a common bit are added as they are united. -/
theorem add_eq_or_of_disjoint {a b : Nat} (h : ∀ i, a.testBit i = true → b.testBit i = false) : a + b = a ||| b := by
  induction a using Nat.strong_induction_on generalizing b with
  | _ a ih =>
    by_cases ha : a = 0
    · simp [ha]
    have hhalf := ih (a / 2) (by omega) (b := b / 2) fun i hi => by
      rw [← Nat.testBit_succ] at hi ⊢
      exact h _ hi
    have hlow := h 0
    have hdiv : (a ||| b) / 2 = a / 2 ||| b / 2 := Nat.or_div_two
    have hmod : (a ||| b) % 2 = a % 2 + b % 2 := by
      rw [← pow_one 2, Nat.or_mod_two_pow, pow_one]
      simp only [Nat.testBit_zero, decide_eq_true_eq, decide_eq_false_iff_not] at hlow
      rcases Nat.mod_two_eq_zero_or_one a with h1 | h1 <;> rcases Nat.mod_two_eq_zero_or_one b with h2 | h2 <;>
        simp_all
    omega

/-- A triple lies on bit `b` of the span. -/
def covers (b : Nat) (f : FieldVal) : Bool :=
  decide (f.lo ≤ b) && decide (b ≤ f.hi)

/-- A triple of a field, with a value that fits it. -/
def Fits (f : FieldVal) : Prop :=
  f.lo ≤ f.hi ∧ f.value < 2 ^ (f.hi - f.lo + 1)

/-- A value that fits its field has bits only where the triple lies. -/
theorem testBit_shifted {f : FieldVal} (h : Fits f) (b : Nat) :
    (f.value <<< f.lo).testBit b = (covers b f && f.value.testBit (b - f.lo)) := by
  obtain ⟨hle, hlt⟩ := h
  rw [Nat.testBit_shiftLeft, covers]
  by_cases hb : b ≤ f.hi
  · simp [hb]
  · rw [Nat.testBit_lt_two_pow (hlt.trans_le (Nat.pow_le_pow_right (by decide) (by omega)))]
    simp

/-- Bit `b` of the packed number is that of the triple that lies on it, when no two do. -/
theorem testBit_bfPackValue {fields : List FieldVal} (hfit : ∀ f ∈ fields, Fits f)
    (hone : ∀ b, (fields.filter (covers b)).length ≤ 1) (b : Nat) :
    (bfPackValue fields).testBit b = (fields.filter (covers b)).any fun f => f.value.testBit (b - f.lo) := by
  rw [List.any_filter]
  induction fields generalizing b with
  | nil => simp [bfPackValue]
  | cons f fields ih =>
    have hrest := ih (fun g hg => hfit g (List.mem_cons_of_mem _ hg)) fun b =>
      ((List.sublist_cons_self f fields).filter _).length_le.trans (hone b)
    have hsum : bfPackValue (f :: fields) = f.value <<< f.lo + bfPackValue fields := rfl
    have hf := testBit_shifted (hfit f List.mem_cons_self)
    rw [hsum, add_eq_or_of_disjoint fun i hi => ?disjoint, Nat.testBit_or, hf, hrest, List.any_cons]
    case disjoint =>
      rw [hf, Bool.and_eq_true] at hi
      have hnone := hone i
      rw [List.filter_cons_of_pos hi.1, List.length_cons] at hnone
      have hempty : fields.filter (covers i) = [] := List.length_eq_zero_iff.1 (by omega)
      rw [hrest, ← List.any_filter, hempty, List.any_nil]

/-- The triple that lies on a bit is the only one. -/
theorem filter_covers_eq {fields : List FieldVal} {b : Nat} (hone : (fields.filter (covers b)).length ≤ 1)
    {f : FieldVal} (hf : f ∈ fields) (hb : covers b f = true) : fields.filter (covers b) = [f] := by
  have hmem : f ∈ fields.filter (covers b) := List.mem_filter.2 ⟨hf, hb⟩
  obtain ⟨g, hg⟩ := List.length_eq_one_iff.1 (le_antisymm hone (List.length_pos_of_mem hmem))
  rw [hg] at hmem ⊢
  rw [List.mem_singleton.1 hmem]

theorem wfPack_iff {k : Nat} {fields : List FieldVal} :
    wfPack k fields = true ↔ 1 ≤ k ∧ (∀ f ∈ fields, Fits f ∧ f.hi < 8 * k) ∧
      ∀ b, b < 8 * k → (fields.filter (covers b)).length = 1 := by
  have hcovers : ∀ b, (fun f : FieldVal => decide (f.lo ≤ b) && decide (b ≤ f.hi)) = covers b := fun _ => rfl
  simp only [wfPack, tiles, fieldOk, hcovers, Bool.and_eq_true, List.all_eq_true, List.mem_range, decide_eq_true_eq,
    beq_iff_eq, Fits, and_right_comm]

/-- Behind the span no triple lies. -/
theorem filter_covers_eq_nil {k b : Nat} {fields : List FieldVal} (hin : ∀ f ∈ fields, f.hi < 8 * k) (hb : 8 * k ≤ b) :
    fields.filter (covers b) = [] := by
  refine List.filter_eq_nil_iff.2 fun f hf hcov => ?_
  have hlt := hin f hf
  simp only [covers, Bool.and_eq_true, decide_eq_true_eq] at hcov
  omega

/-! The bytes of a number, read back. -/

theorem foldl_toBE (k x acc : Nat) :
    (toBE k x).foldl (fun acc b => acc * 256 + b.toNat) acc = acc * 256 ^ k + x % 256 ^ k := by
  induction k generalizing acc with
  | zero => simp [toBE, Nat.mod_one]
  | succ k ih =>
    rw [toBE, List.foldl_cons, ih, BitVec.toNat_ofNat, show 2 ^ 8 = 256 from rfl, Nat.mod_pow_succ (b := 256)]
    ring

theorem beNat_toBE {k x : Nat} (h : x < 256 ^ k) : beNat (toBE k x) = x := by
  rw [beNat, foldl_toBE, Nat.zero_mul, Nat.zero_add, Nat.mod_eq_of_lt h]

theorem exec_bfPack {k : Nat} {fields : List FieldVal} (h : wfPack k fields = true) (s : State) :
    exec (.bfPack k fields) s = .next { s with ret := .span (bfPack k fields) } := by
  show withinContract _ _ = _
  rw [h]
  rfl

/-- Settles O38: on each of its bits a triple is the only one, so the packed number has there the bit of its value. -/
theorem bfPackThenExtractIsTheValue : Obligations.BfPackThenExtractIsTheValue := by
  intro s k fields hwf
  obtain ⟨-, hfields, hall⟩ := wfPack_iff.1 hwf
  have hnil : ∀ b, 8 * k ≤ b → fields.filter (covers b) = [] := fun b =>
    filter_covers_eq_nil fun f hf => (hfields f hf).2
  have hone : ∀ b, (fields.filter (covers b)).length ≤ 1 := fun b => by
    rcases Nat.lt_or_ge b (8 * k) with hb | hb
    · exact (hall b hb).le
    · simp [hnil b hb]
  have hbits := testBit_bfPackValue (fun f hf => (hfields f hf).1) hone
  have hlt : bfPackValue fields < 256 ^ k := by
    rw [show 256 = 2 ^ 8 from rfl, ← Nat.pow_mul]
    refine Nat.lt_pow_two_of_testBit _ fun b hb => ?_
    rw [hbits, hnil b hb, List.any_nil]
  refine ⟨bfPack k fields, exec_bfPack hwf s, Laws.EncodedLength.bfPack_length k fields, fun f hf => ?_⟩
  obtain ⟨⟨hle, hval⟩, -⟩ := hfields f hf
  refine Nat.eq_of_testBit_eq fun i => ?_
  rw [testBit_bfExtract, bfPack, beNat_toBE hlt, hbits]
  by_cases hi : i < f.hi - f.lo + 1
  · have hcov : covers (f.lo + i) f = true := by
      simp [covers]
      omega
    rw [filter_covers_eq (hone _) hf hcov]
    simp [hi]
  · rw [Nat.testBit_lt_two_pow (hval.trans_le (Nat.pow_le_pow_right (by decide) (by omega)))]
    simp [hi]

end Sys2Proof.Machine
end

section
/-! The checksum engine (spec/42_checksum_engine.md R140 to R145). -/

namespace Sys2Proof.Machine

/-! The sum modulo 256. -/

theorem sum8_toNat (b : List Byte) : (sum8 b).toNat = (b.map BitVec.toNat).sum % 256 := by
  induction b with
  | nil => rfl
  | cons x b ih =>
    rw [sum8_cons, BitVec.toNat_add, ih, List.map_cons, List.sum_cons, show 2 ^ 8 = 256 from rfl, Nat.add_mod_mod]

theorem sum8_perm {a b : List Byte} (h : a.Perm b) : sum8 a = sum8 b := by
  apply BitVec.eq_of_toNat_eq
  rw [sum8_toNat, sum8_toNat, (h.map BitVec.toNat).sum_eq]

/-- Settles O30: the sum of the numbers modulo 256, which is that of any order and any grouping. -/
theorem sum8IsTheSumModulo256 : Obligations.Sum8IsTheSumModulo256 :=
  ⟨sum8_nil, sum8_toNat, fun _ _ => sum8_perm, sum8_append⟩

/-- One byte replaced replaces its share of the sum. -/
theorem sum8_set {l : List Byte} {i : Nat} (h : i < l.length) (v : Byte) : sum8 (l.set i v) + l[i] = sum8 l + v := by
  induction l generalizing i with
  | nil => cases h
  | cons x l ih =>
    rcases i with _ | i
    · rw [List.set_cons_zero, List.getElem_cons_zero, sum8_cons, sum8_cons]
      ac_rfl
    · rw [List.set_cons_succ, List.getElem_cons_succ, sum8_cons, sum8_cons, BitVec.add_assoc,
        ih (Nat.lt_of_succ_lt_succ h), BitVec.add_assoc]

/-! The checksum byte. -/

theorem ckComputeOf_toNat (b : List Byte) : (ckComputeOf b).toNat = (256 - (b.map BitVec.toNat).sum % 256) % 256 := by
  rw [ckComputeOf, neg8, BitVec.toNat_ofNat, sum8_toNat, show 2 ^ 8 = 256 from rfl, Nat.mod_mod]

theorem ckValidateOf_eq_one (b : List Byte) : ckValidateOf b = 1 ↔ sum8 b = 0 := by
  unfold ckValidateOf
  split_ifs with h
  · exact iff_of_true rfl h
  · exact iff_of_false (by decide) h

/-- A byte brings the sum to 0 exactly when it is the checksum byte. -/
theorem sum8_snoc_eq_zero (b : List Byte) (x : Byte) : sum8 (b ++ [x]) = 0 ↔ x = ckComputeOf b := by
  rw [sum8_append, sum8_cons, sum8_nil, ckComputeOf, neg8_eq_neg]
  constructor <;> intro h <;> bv_omega

/-- What ENCODE emits is a body with its length byte patched, and its checksum byte. -/
theorem encodePacket_ok {c : Cfg} {p : Pkt} {bytes : List Byte} :
    encodePacket c p = .ok bytes ↔
      (encodeChecks c p).all checkHolds = true ∧ bytes = sealPacket (composeBody c p) := by
  unfold encodePacket
  constructor
  · intro h
    split at h
    · cases h
    · cases h
      exact ⟨(runChecks_strict_ok ‹_›).2, rfl⟩
  · rintro ⟨hall, rfl⟩
    rw [runChecks_of_all _ _ hall]

theorem sum8_sealPacket (body : List Byte) : sum8 (sealPacket body) = 0 :=
  (sum8_snoc_eq_zero _ _).2 rfl

/-- Settles O31: the checksum byte is the one that brings the sum to 0, and a sealed packet ends with it. -/
theorem checksumByteIsTheOnlyOne : Obligations.ChecksumByteIsTheOnlyOne := by
  refine ⟨fun b x => (ckValidateOf_eq_one _).trans (sum8_snoc_eq_zero b x), fun c p bytes h => ?_⟩
  obtain ⟨-, rfl⟩ := encodePacket_ok.1 h
  exact (ckValidateOf_eq_one _).2 (sum8_sealPacket _)

/-! The two checksum commands. -/

theorem exec_ckCompute_ready {s : State} (h : busy s = false) :
    exec .ckCompute s = .next (markDone (finishChecksum s (ckComputeOf (operandBytes s)))) :=
  whenReady_ready h

theorem exec_ckValidate_ready {s : State} (h : busy s = false) :
    exec .ckValidate s = .next (finishChecksum s (ckValidateOf (operandBytes s))) :=
  whenReady_ready h

/-- Settles O32: the checksum byte of the operand, and that of an encoded packet is its last byte. -/
theorem ckComputeResult : Obligations.CkComputeResult := by
  refine ⟨rfl, fun s hready => ⟨_, exec_ckCompute_ready hready, ckComputeOf_toNat _, rfl⟩, fun c p bytes h => ?_⟩
  obtain ⟨-, rfl⟩ := encodePacket_ok.1 h
  exact ⟨_, _, rfl, ckComputeOf_toNat _⟩

theorem ckValidateOf_eq (b : List Byte) :
    ckValidateOf b = if (b.map BitVec.toNat).sum % 256 = 0 then 1 else 0 := by
  have hzero : sum8 b = 0 ↔ (b.map BitVec.toNat).sum % 256 = 0 := by
    rw [← sum8_toNat, ← BitVec.toNat_inj]
    rfl
  simp only [ckValidateOf, hzero]

/-- Settles O33: the answer is whether the sum of the operand is 0. -/
theorem ckValidateResult : Obligations.CkValidateResult :=
  ⟨rfl, fun _ hready => ⟨_, exec_ckValidate_ready hready, ckValidateOf_eq _, rfl⟩⟩

/-- A byte written inside a span is a byte of it replaced. -/
theorem memSpan_memWrite {m : Memory} (hm : memWf m = true) {a n : Nat} (v : Byte) :
    memSpan (memWrite m a v) 0 n = (memSpan m 0 n).set a v := by
  refine List.ext_getElem (by simp) fun i h1 h2 => ?_
  rw [List.getElem_set]
  by_cases hia : a = i
  · subst hia
    simp [memSpan, memRead_memWrite_same hm]
  · simp [memSpan, hia, memRead_memWrite_other (Ne.symm hia)]

/-- Settles O34: the sum was 0, and one share of it is replaced by another. -/
theorem singleByteChangeIsDetected : Obligations.SingleByteChangeIsDetected := by
  intro s t a v hready hm ha hv h hone
  cases (exec_ckValidate_ready hready).symm.trans h
  have hsum : sum8 (operandBytes s) = 0 := (ckValidateOf_eq_one _).1 hone
  let u : State := { s with inMem := memWrite s.inMem a v }
  have hread : operandBytes u = (operandBytes s).set a v := memSpan_memWrite hm v
  have hlen : a < (operandBytes s).length := by simpa [operandBytes] using ha
  have hchange := sum8_set hlen v
  have hold : (operandBytes s)[a] = memRead s.inMem a := by simp [operandBytes, memSpan]
  rw [hsum, hold] at hchange
  have hne : sum8 (operandBytes u) ≠ 0 := fun hzero => hv (by simpa [← hread, hzero] using hchange.symm)
  exact ⟨_, exec_ckValidate_ready (s := u) hready, if_neg hne⟩

end Sys2Proof.Machine
end

section
/-! The instruction fetched, the values after reset, the port while an operation runs, and the forms that stop by name. -/

namespace Sys2Proof.Machine

open Sys2Proof.Safety

/-- What the decoder reads in the slot that is due is the instruction fetched. -/
theorem fetch_of_decodeAt {c : Cfg} {s : State} {i : Instr} (h : decodeAt c (slotOf s) (fetchBytes c s) = .ok i) :
    fetch c s = i := by
  obtain ⟨-, -, hparse, -⟩ := decodeAt_ok.1 h
  exact hparse

/-- Settles O1: the decoder agrees with the fetch. -/
theorem stepRunsTheDecodedInstruction : Obligations.StepRunsTheDecodedInstruction :=
  ⟨fun s i h => by rw [step, fetch_of_decodeAt h], fun c s i h => by rw [stepWith, fetch_of_decodeAt h],
    fun _ => step_ready, step_eq_stepWith, exec_eq_execWith⟩

/-- Settles O2: the words are evaluated. -/
theorem writtenOutWordsDecodeAsTheirRows : Obligations.WrittenOutWordsDecodeAsTheirRows := by
  unfold Obligations.WrittenOutWordsDecodeAsTheirRows
  decide

/-- Settles O5: the values are those of `State.resetWith`. -/
theorem resetLeavesTheSpecsValues : Obligations.ResetLeavesTheSpecsValues :=
  ⟨rfl, fun _ => ⟨rfl, rfl, rfl, rfl, rfl, rfl, rfl, rfl, rfl, rfl, rfl, rfl, rfl, rfl, rfl, rfl⟩⟩

/-- Settles O6: both buffers are empty, no failure is shown, and the cursor is 0. -/
theorem resetMeetsTheInvariants : Obligations.ResetMeetsTheInvariants := by
  refine ⟨rfl, ⟨iff_of_false ?_ (not_not.2 rfl), fun _ => rfl⟩, rfl⟩
  simp [State.reset, State.resetWith]

/-! The port while an operation runs. -/

theorem busy_iff (s : State) : busy s = true ↔ s.st ≠ .idle ∧ s.st ≠ .done ∧ s.st ≠ .failed := by
  unfold busy
  cases s.st <;> simp

/-- Settles O9: every command but NOP waits for the port. -/
theorem commandOfferedWhileBusyHasNoEffect : Obligations.CommandOfferedWhileBusyHasNoEffect := by
  refine ⟨fun i s hi hbusy => ?_, busy_iff⟩
  cases i
  case nop => rfl
  case decode | encode | ckCompute | ckValidate | seqObserve | seqReset => exact whenReady_busy hbusy
  all_goals cases hi

/-! The forms that stop by name. -/

/-- The slot in which an element is due is that of its encoding; elsewhere it is refused. -/
theorem exec_wire_notDue {i : Instr} {s : State} (hi : isWire i = true)
    (h : ∀ slot b, encode cfg i = some (slot, b) → slotOf s ≠ slot) : exec i s = .refused .elementNotDue := by
  cases i
  case header | timecode | ccdataHead | ccTriplet | svcinfoHead | svcEntry | footer => exact whenDue_not (h _ _ rfl)
  all_goals cases hi

/-- No element's slot is the port. -/
theorem encode_wire_ne_port {i : Instr} {slot : Slot} {b : List Byte} (hi : isWire i = true)
    (h : encode cfg i = some (slot, b)) : slot ≠ .port := by
  cases i
  case header | timecode | ccdataHead | ccTriplet | svcinfoHead | svcEntry | footer =>
    cases h
    decide
  all_goals cases hi

/-- An operation outside its contract is refused. -/
theorem withinContract_not {ok : Bool} {o : Out} (h : ¬ ok = true) : withinContract ok o = .refused .outsideContract := by
  rw [Bool.not_eq_true] at h
  rw [h, withinContract_false]

/-- Settles O56: each form fails the test that its meaning makes first. -/
theorem outOfPlaceFormsAreRefused : Obligations.OutOfPlaceFormsAreRefused := by
  refine ⟨?port, ?slot, ?field, ?const, ?pack, ?cct, ?sve, ?cc, ?svc, ?entry⟩
  case port =>
    intro i s hi hready
    refine exec_wire_notDue hi fun slot b hb hslot => encode_wire_ne_port hi hb ?_
    rw [← hslot, slotOf_port_iff, hready]
  case slot =>
    intro s slot b i hi hb hne
    refine exec_wire_notDue hi fun slot' b' hb' hslot => hne ?_
    cases hb.symm.trans hb'
    exact hslot.symm
  case field =>
    intro s span hi lo const off hout
    have hfield : ¬ fieldOk span.length hi lo = true := by
      simp [fieldOk]
      omega
    exact ⟨withinContract_not hfield, withinContract_not fun hwf => hfield (Bool.and_eq_true_iff.1 hwf).1⟩
  case const =>
    intro s span hi lo const off hbig
    refine withinContract_not fun hwf => ?_
    exact absurd (of_decide_eq_true (Bool.and_eq_true_iff.1 hwf).2) (Nat.not_lt.2 hbig)
  case pack =>
    intro s k fields hout
    refine withinContract_not fun hwf => ?_
    obtain ⟨hk, hfields, hall⟩ := wfPack_iff.1 hwf
    rcases hout with hzero | ⟨f, hf, hbad⟩ | ⟨b, hb, hcount⟩
    · omega
    · obtain ⟨⟨hle, hval⟩, hhi⟩ := hfields f hf
      omega
    · refine hcount ?_
      rw [← hall b hb]
      congr 2
      funext f
      simp [covers]
  case cct => exact fun s o h => withinContract_not fun hok => Nat.not_le.2 h (of_decide_eq_true hok)
  case sve => exact fun s o h => withinContract_not fun hok => Nat.not_le.2 h (of_decide_eq_true hok)
  case cc => exact fun s h => withinContract_not fun hok => Nat.not_le.2 h (of_decide_eq_true hok)
  case svc => exact fun s h => withinContract_not fun hok => Nat.not_le.2 h (of_decide_eq_true hok)
  case entry => exact fun s e h => withinContract_not fun hok => h (Nat.succ.inj (beq_iff_eq.1 hok))

end Sys2Proof.Machine
end

section
/-! What the encoders emit (spec/41_section_codec.md R113 to R125, spec/44_packet_encode.md R170 to R180). -/

namespace Sys2Proof.Machine

open Sys2Proof.Safety
open Sys2Proof.Laws.EncodedLength (legal_sizes)

/-! The section encoders. -/

/-- What is emitted stands in `OUT` behind what was there, and no other byte changes. -/
theorem appends_emit {s : State} (hm : memWf s.outMem = true) (bytes : List Byte) :
    Appends (.next (emit s bytes)) s bytes :=
  ⟨emit s bytes, rfl, rfl, memSpan_memWriteBytes hm, fun _ ha => memRead_memWriteBytes_other ha⟩

theorem hdrEncOf_cfg (h : HeaderRegs) :
    hdrEncOf cfg h = [0x96, 0x69, 0, h.fr ++ 0b1111#4,
      h.flags.tc ++ h.flags.cc ++ h.flags.svc ++ h.flags.start ++ h.flags.change ++ h.flags.complete ++
        h.flags.active ++ 0b1#1,
      h.hseq.extractLsb' 8 8, h.hseq.extractLsb' 0 8] := by
  have hhigh : cfg.magic.extractLsb' 8 8 = 0x96 := by decide
  have hlow : cfg.magic.extractLsb' 0 8 = 0x69 := by decide
  rw [hdrEncOf, encodeHeader_eq, headerElOf]
  dsimp only
  rw [hhigh, hlow]
  rfl

theorem tcEncOf_cfg (t : TimeCode) :
    tcEncOf cfg t = [0x71, 0b11#2 ++ t.h, 0b1#1 ++ t.m, t.ff ++ t.s, t.df ++ 0b0#1 ++ t.f] := by
  rw [tcEncOf, encodeTimeCode_eq]
  rfl

theorem ftrEncOf_cfg (v : Half) : ftrEncOf cfg v = [0x74, v.extractLsb' 8 8, v.extractLsb' 0 8] := by
  rw [ftrEncOf, encodeFooterHead_eq]
  rfl

/-- Settles O48: each encoder emits its element, packed of the registers and the constants. -/
theorem fixedSectionEncodes : Obligations.FixedSectionEncodes := by
  intro s hm
  have hhdr : Appends (exec .hdrEnc s) s (hdrEncOf cfg s.f.hdr) := appends_emit hm _
  have htc : Appends (exec .tcEnc s) s (tcEncOf cfg s.f.tc) := appends_emit hm _
  have hftr : Appends (exec .ftrEnc s) s (ftrEncOf cfg s.f.hdr.hseq) := appends_emit hm _
  rw [hdrEncOf_cfg] at hhdr
  rw [tcEncOf_cfg] at htc
  rw [ftrEncOf_cfg] at hftr
  exact ⟨hhdr, htc, hftr⟩

theorem cctEncOf_cfg (t : Triplet) :
    cctEncOf cfg t = ([0b11111#5 ++ t.valid ++ t.ccType, t.d1, t.d2] : List Byte) :=
  encodeTriplet_eq (tripletElOf cfg t)

theorem ccEncOf_cfg (l : List Triplet) :
    ccEncOf cfg l = [0x72, 0b111#3 ++ BitVec.ofNat 5 l.length] ++
      l.flatMap fun t => ([0b11111#5 ++ t.valid ++ t.ccType, t.d1, t.d2] : List Byte) := by
  rw [ccEncOf, encodeCountHead_eq, funext cctEncOf_cfg]
  rfl

theorem svcEncOf_cfg {l : List SvcEntry} (h : l.all (wfSvcEntry cfg) = true) :
    svcEncOf cfg l = [0x73, 0b111#3 ++ BitVec.ofNat 5 l.length] ++ l.flatMap fun e => e.sn :: e.attr := by
  have hentries : l.flatMap (sveEncOf cfg) = l.flatMap fun e => e.sn :: e.attr :=
    List.flatMap_congr fun e he => encodeSvcEntry_eq (List.all_eq_true.1 h e he)
  rw [svcEncOf, encodeCountHead_eq, hentries]
  rfl

theorem withinContract_of {ok : Bool} {o : Out} (h : ok = true) : withinContract ok o = o := by
  rw [h, withinContract_true]

theorem exec_ccEnc {s : State} (h : s.f.ccCount ≤ 31) : exec .ccEnc s = .next (emit s (ccEncOf cfg (ccEntries s.f))) :=
  withinContract_of (decide_eq_true h)

theorem exec_svcEnc {s : State} (h : s.f.svcCount ≤ 31) :
    exec .svcEnc s = .next (emit s (svcEncOf cfg (svcEntries cfg s.f))) :=
  withinContract_of (decide_eq_true h)

theorem exec_sveEnc {e : SvcEntry} (h : wfSvcEntry cfg e = true) (s : State) :
    exec (.sveEnc e) s = .next (emit s (encodeSvcEntry cfg e)) :=
  withinContract_of h

/-- Settles O49: within its contract each encoder emits its head and its entries, packed of the registers and the
constants. -/
theorem countedSectionEncodes : Obligations.CountedSectionEncodes := by
  intro s hm
  refine ⟨fun hcount => ?cc, fun t => ?cct, fun hcount => ?svc, fun e hattr => ?sve⟩
  case cc =>
    rw [exec_ccEnc hcount, ccEncOf_cfg, ccEntries_length]
    exact appends_emit hm _
  case cct =>
    have h : Appends (exec (.cctEnc t) s) s (cctEncOf cfg t) := appends_emit hm _
    rwa [cctEncOf_cfg] at h
  case svc =>
    rw [exec_svcEnc hcount, svcEncOf_cfg (svcEntries_wf (by decide) s.f), svcEntries_length]
    exact appends_emit hm _
  case sve =>
    have hwf : wfSvcEntry cfg e = true := beq_iff_eq.2 (congrArg Nat.succ hattr)
    rw [exec_sveEnc hwf, encodeSvcEntry_eq hwf]
    exact appends_emit hm _

/-! ENCODE. -/

/-- Settles O21: the packet is written over the first bytes of `OUT`. -/
theorem encodeEndsInDone : Obligations.EncodeEndsInDone := by
  intro s bytes hready hm h
  refine ⟨finishEncode (startEncode s) bytes, by rw [exec_encode_ready hready, h]; rfl, memSpan_memWriteBytes hm, ?_, rfl⟩
  exact fun a ha => memRead_memWriteBytes_other (.inr (by omega))

/-- Settles O24: the packet function reads none of the four registers, and ENCODE reads nothing but the bank. -/
theorem encodeReadsOnlyItsRegisters : Obligations.EncodeReadsOnlyItsRegisters := by
  intro s t m mem k w last id fs len ck hready h hdone
  cases (exec_encode_ready hready).symm.trans h
  refine ⟨_, exec_encode_ready hready, ?_⟩
  have hpkt : encodePacket cfg
      (bankPkt cfg { s.f with hdr := { s.f.hdr with id := id, len := len }, fseq := fs, cksum := ck }) =
      encodePacket cfg (bankPkt cfg s.f) := rfl
  rw [hpkt]
  rcases hx : encodePacket cfg (bankPkt cfg s.f) with r | bytes
  · rw [hx] at hdone
    cases hdone
  · exact ⟨rfl, rfl, rfl⟩

end Sys2Proof.Machine
end

section
/-! The layout of an encoded packet (spec/44_packet_encode.md R175 to R180, spec/20_memory.md R58). -/

namespace Sys2Proof.Machine

open Sys2Proof.Safety
open Sys2Proof.Laws.EncodedLength (legal_sizes)

/-! The sizes of what the section encoders emit. -/

theorem encodeHeader_length (e : HeaderEl) : (encodeHeader e).length = 7 := by
  rw [encodeHeader_eq]
  rfl

theorem encodeTimeCode_length (e : TimeCodeEl) : (encodeTimeCode e).length = 5 := by
  rw [encodeTimeCode_eq]
  rfl

theorem encodeCountHead_length (e : CountHeadEl) : (encodeCountHead e).length = 2 := by
  rw [encodeCountHead_eq]
  rfl

theorem encodeTriplet_length (e : TripletEl) : (encodeTriplet e).length = 3 := by
  rw [encodeTriplet_eq]
  rfl

theorem encodeSvcEntry_length {c : Cfg} {e : SvcEntry} (h : wfSvcEntry c e = true) :
    (encodeSvcEntry c e).length = c.svcEntryBytes := by
  rw [encodeSvcEntry_eq h]
  exact beq_iff_eq.1 h

theorem encodeFooter_length (e : FooterEl) : (encodeFooter e).length = 4 := by
  rw [encodeFooter_eq]
  rfl

/-- Entries of one size, one after another. -/
theorem length_flatMap_of_const {α : Type} {f : α → List Byte} {k : Nat} {l : List α} (h : ∀ a ∈ l, (f a).length = k) :
    (l.flatMap f).length = k * l.length := by
  rw [List.length_flatMap, List.map_congr_left h, List.map_const', List.sum_replicate, smul_eq_mul, Nat.mul_comm]

theorem ccEncOf_length (c : Cfg) (l : List Triplet) : (ccEncOf c l).length = 2 + 3 * l.length := by
  have hentries : (l.flatMap (cctEncOf c)).length = 3 * l.length :=
    length_flatMap_of_const fun t _ => encodeTriplet_length (tripletElOf c t)
  rw [ccEncOf, List.length_append, encodeCountHead_length, hentries]

theorem svcEncOf_length {c : Cfg} {l : List SvcEntry} (h : l.all (wfSvcEntry c) = true) :
    (svcEncOf c l).length = 2 + c.svcEntryBytes * l.length := by
  have hentries : (l.flatMap (sveEncOf c)).length = c.svcEntryBytes * l.length :=
    length_flatMap_of_const fun e he => encodeSvcEntry_length (List.all_eq_true.1 h e he)
  rw [svcEncOf, List.length_append, encodeCountHead_length, hentries]

section Layout

variable {c : Cfg} {p : Pkt}

/-- The sections between header and footer. -/
def sectionBytes (c : Cfg) (p : Pkt) : List Byte :=
  optBytes p.tc (tcEncOf c) ++ optBytes p.cc (ccEncOf c) ++ optBytes p.svc (svcEncOf c)

/-- Everything before the checksum byte, the length byte given. -/
def packetHead (c : Cfg) (p : Pkt) (len : Byte) : List Byte :=
  encodeHeader (headerElOf c len p.hdr) ++ sectionBytes c p ++ ftrEncOf c p.hdr.hseq

theorem optBytes_tc_length (hc : c.legal = true) (o : Option TimeCode) : (optBytes o (tcEncOf c)).length = tcSize c o := by
  obtain ⟨-, htc, -⟩ := legal_sizes hc
  cases o
  · rfl
  · simp [optBytes, tcEncOf, encodeTimeCode_length, tcSize, htc]

theorem optBytes_cc_length (hc : c.legal = true) (o : Option (List Triplet)) :
    (optBytes o (ccEncOf c)).length = ccSize c o := by
  obtain ⟨-, -, hcc, -⟩ := legal_sizes hc
  cases o
  · rfl
  · simp only [optBytes, ccEncOf_length, ccSize, hcc]

theorem optBytes_svc_length (hw : entriesWhole c p = true) : (optBytes p.svc (svcEncOf c)).length = svcSize c p.svc := by
  unfold entriesWhole at hw
  cases hsvc : p.svc with
  | none => rfl
  | some l =>
    rw [hsvc] at hw
    exact svcEncOf_length hw

theorem sectionBytes_length (hc : c.legal = true) (hw : entriesWhole c p = true) :
    (sectionBytes c p).length = tcSize c p.tc + ccSize c p.cc + svcSize c p.svc := by
  simp only [sectionBytes, List.length_append, optBytes_tc_length hc, optBytes_cc_length hc, optBytes_svc_length hw]

theorem packetHead_length (hc : c.legal = true) (hw : entriesWhole c p = true) (len : Byte) :
    (packetHead c p len).length + 1 = pktLength c p := by
  obtain ⟨hhdr, -, -, hftr, -⟩ := legal_sizes hc
  simp only [packetHead, List.length_append, encodeHeader_length, sectionBytes_length hc hw, ftrEncOf,
    encodeFooterHead_eq, List.length_cons, List.length_nil, pktLength, hhdr, hftr]
  omega

theorem composeBody_eq (c : Cfg) (p : Pkt) : composeBody c p = packetHead c p 0 := by
  simp only [composeBody, packetHead, sectionBytes, hdrEncOf, List.append_assoc]

/-- The length byte is byte 2. -/
theorem packetHead_set (c : Cfg) (p : Pkt) (len len' : Byte) : (packetHead c p len).set 2 len' = packetHead c p len' := by
  simp only [packetHead, encodeHeader_eq]
  rfl

/-- A sealed packet: the length byte is the structural length, and the checksum byte ends it. -/
theorem sealPacket_composeBody (hc : c.legal = true) (hw : entriesWhole c p = true) :
    sealPacket (composeBody c p) =
      packetHead c p (BitVec.ofNat 8 (pktLength c p)) ++
        [ckComputeOf (packetHead c p (BitVec.ofNat 8 (pktLength c p)))] := by
  unfold sealPacket
  dsimp only
  rw [composeBody_eq, packetHead_length hc hw, packetHead_set]

/-- An encoded packet is its header, its sections and its footer. -/
theorem packetHead_snoc (c : Cfg) (p : Pkt) (len ck : Byte) :
    packetHead c p len ++ [ck] =
      encodeHeader (headerElOf c len p.hdr) ++ sectionBytes c p ++ encodeFooter (footerElOf c p.hdr.hseq ck) := by
  simp only [packetHead, ftrEncOf, encodeFooter, footerElOf, bfPack_byte, List.append_assoc]
  rfl

theorem legal_lenMax (hc : c.legal = true) : c.lenMax = 255 := by
  simp only [Cfg.legal, Bool.and_eq_true, beq_iff_eq] at hc
  exact hc.1.1.1.2

/-- What ENCODE's checks say of the record, when they pass. -/
theorem encodeChecks_hold :
    (encodeChecks c p).all checkHolds = true ↔
      flagsConsistent p = true ∧ c.validFrameRates.contains p.hdr.fr = true ∧ countFits p.cc c.ccCountMax = true ∧
        countFits p.svc c.svcCountMax = true ∧ pktLength c p ≤ c.lenMax := by
  simp [encodeChecks, checkHolds]

/-- What ENCODE emits, header, sections and footer, with the checksum byte that brings the sum to 0. -/
theorem encodePacket_layout {bytes : List Byte} (hc : c.legal = true) (hw : entriesWhole c p = true)
    (h : encodePacket c p = .ok bytes) :
    ∃ ck, bytes = encodeHeader (headerElOf c (BitVec.ofNat 8 bytes.length) p.hdr) ++ sectionBytes c p ++
        encodeFooter (footerElOf c p.hdr.hseq ck) ∧
      bytes.length = pktLength c p ∧ pktLength c p ≤ 255 ∧ sum8 bytes = 0 := by
  obtain ⟨hall, rfl⟩ := encodePacket_ok.1 h
  obtain ⟨-, -, -, -, hmost⟩ := encodeChecks_hold.1 hall
  have hlen : (sealPacket (composeBody c p)).length = pktLength c p := by
    rw [sealPacket_composeBody hc hw, List.length_append, List.length_singleton, packetHead_length hc hw]
  refine ⟨ckComputeOf (packetHead c p (BitVec.ofNat 8 (pktLength c p))), ?_, hlen, hmost.trans_eq (legal_lenMax hc),
    sum8_sealPacket _⟩
  rw [hlen, sealPacket_composeBody hc hw, packetHead_snoc]

theorem byteAt_append_right (a b : List Byte) (i : Nat) : byteAt (a ++ b) (a.length + i) = byteAt b i := by
  simp [byteAt, List.getElem?_append_right]

/-- The record in the bank has entries of the configuration's width. -/
theorem entriesWhole_bankPkt (hc : c.legal = true) (b : Bank) : entriesWhole c (bankPkt c b) = true := by
  obtain ⟨-, -, -, -, hone⟩ := legal_sizes hc
  simp only [entriesWhole, bankPkt]
  split
  · rfl
  · rename_i l hl
    split_ifs at hl
    cases hl
    exact svcEntries_wf hone b

end Layout

/-- The header's bytes stand at the start of a packet. -/
theorem byteAt_packet {e : HeaderEl} {rest : List Byte} :
    let b := encodeHeader e ++ rest
    byteAt b 2 = e.len ∧ halfField (byteAt b 0) (byteAt b 1) = e.magic ∧ halfField (byteAt b 5) (byteAt b 6) = e.hseq := by
  rw [encodeHeader_eq]
  exact ⟨rfl, halfField_high_low _, halfField_high_low _⟩

/-- The footer's bytes stand at the end of a packet. -/
theorem byteAt_footer {e : FooterEl} {front b : List Byte} (hb : b = front ++ encodeFooter e) :
    byteAt b (b.length - 4) = e.id ∧ halfField (byteAt b (b.length - 3)) (byteAt b (b.length - 2)) = e.fseq ∧
      byteAt b (b.length - 1) = e.cksum := by
  have hlen : b.length = front.length + 4 := by rw [hb, List.length_append, encodeFooter_length]
  have hat : ∀ i, byteAt b (front.length + i) = byteAt (encodeFooter e) i := fun i => by
    rw [hb, byteAt_append_right]
  have h0 := hat 0
  have h1 := hat 1
  have h2 := hat 2
  have h3 := hat 3
  rw [encodeFooter_eq] at h0 h1 h2 h3
  rw [hlen, show front.length + 4 - 4 = front.length + 0 by omega, show front.length + 4 - 3 = front.length + 1 by omega,
    show front.length + 4 - 2 = front.length + 2 by omega, show front.length + 4 - 1 = front.length + 3 by omega,
    h0, h1, h2, h3]
  exact ⟨rfl, halfField_high_low _, rfl⟩

/-- Settles O22: the bytes are those of the layout. -/
theorem encodedPacketShape : Obligations.EncodedPacketShape := by
  refine ⟨fun c p bytes hc hw h => ?shape, fun c b hc => entriesWhole_bankPkt hc b, fun c s t hc hready h hdone => ?outLen⟩
  case shape =>
    obtain ⟨ck, hbytes, hlen, hmost, hsum⟩ := encodePacket_layout hc hw h
    obtain ⟨hid, hfseq, -⟩ := byteAt_footer hbytes
    rw [List.append_assoc] at hbytes
    obtain ⟨hlenByte, hmagic, hhseq⟩ := byteAt_packet (e := headerElOf c (BitVec.ofNat 8 bytes.length) p.hdr)
      (rest := sectionBytes c p ++ encodeFooter (footerElOf c p.hdr.hseq ck))
    rw [← hbytes] at hlenByte hmagic hhseq
    obtain ⟨hhdr, -, -, hftr, -⟩ := legal_sizes hc
    have hleast : 11 ≤ pktLength c p := by
      simp only [pktLength]
      omega
    refine ⟨hlen, hleast.trans_eq hlen.symm, hlen.trans_le hmost, ?_, hmagic, hhseq, hid, hfseq, hsum⟩
    rw [hlenByte, headerElOf, BitVec.toNat_ofNat]
    omega
  case outLen =>
    cases (whenReady_ready hready).symm.trans h
    rcases hx : encodePacket c (bankPkt c s.f) with r | bytes
    · rw [hx] at hdone
      cases hdone
    · obtain ⟨-, -, hlen, -⟩ := encodePacket_layout hc (entriesWhole_bankPkt hc s.f) hx
      exact hlen

end Sys2Proof.Machine
end

section
/-! The bounds of the cursor and of the failure offset (spec/10_state.md R33, R35; spec/43_packet_decode.md R166). -/

namespace Sys2Proof.Machine

open Sys2Proof.Safety

theorem sizes_cfg :
    cfg.hdrBytes = 7 ∧ cfg.tcBytes = 5 ∧ cfg.cctBytes = 3 ∧ cfg.svcEntryBytes = 7 ∧ cfg.ftrBytes = 4 :=
  ⟨rfl, rfl, rfl, rfl, rfl⟩

theorem sectionOk_none {α : Type} (most size cur : Nat) :
    sectionOk most size cur (none : Option (BitVec 5 × List α)) = true ↔ cur ≤ most := by
  simp [sectionOk]

theorem sectionOk_some {α : Type} (most size cur : Nat) (cnt : BitVec 5) (l : List α) :
    sectionOk most size cur (some (cnt, l)) = true ↔ l.length < cnt.toNat ∧ cur ≤ most + 2 + size * l.length := by
  simp [sectionOk]

/-! What the bounds say, per framing state. -/

theorem frameOk_header {s : State} (h : s.st = .header) :
    frameOk s = true ↔ s.errOff < 512 ∧ s.cur = 0 ∧ s.pend.cc = none ∧ s.pend.svc = none := by
  simp [frameOk, h, and_assoc]

theorem frameOk_timeCode {s : State} (h : s.st = .timeCode) :
    frameOk s = true ↔ s.errOff < 512 ∧ s.cur ≤ 7 ∧ s.pend.cc = none ∧ s.pend.svc = none := by
  simp [frameOk, h, and_assoc]

theorem frameOk_ccData {s : State} (h : s.st = .ccData) :
    frameOk s = true ↔ s.errOff < 512 ∧ sectionOk 12 3 s.cur s.pend.cc = true ∧ s.pend.svc = none := by
  simp [frameOk, h]

theorem frameOk_serviceInfo {s : State} (h : s.st = .serviceInfo) :
    frameOk s = true ↔ s.errOff < 512 ∧ sectionOk 107 7 s.cur s.pend.svc = true := by
  simp [frameOk, h]

/-- A state in which nothing is read from `IN`: behind the sections, or with no operation under way. -/
def pastSections : FrameState → Bool
  | .footer | .idle | .done | .failed => true
  | .header | .timeCode | .ccData | .serviceInfo => false

theorem frameOk_pastSections {s : State} (h : pastSections s.st = true) :
    frameOk s = true ↔ s.errOff < 512 ∧ s.cur ≤ 326 := by
  unfold frameOk
  cases hst : s.st <;> simp [pastSections, hst] at h ⊢

/-- The cursor of a section is at most that before its head, with the head and the largest count of entries. -/
theorem cur_le_of_sectionOk {α : Type} {most size cur : Nat} {o : Option (BitVec 5 × List α)}
    (h : sectionOk most size cur o = true) : cur ≤ most + 2 + size * 30 := by
  rcases o with _ | ⟨cnt, l⟩
  · rw [sectionOk_none] at h
    omega
  · obtain ⟨hlen, hcur⟩ := (sectionOk_some ..).1 h
    have hmul : size * l.length ≤ size * 30 := Nat.mul_le_mul_left _ (by omega)
    omega

/-- In every framing state the offset fits 9 bits, and the cursor is at most that of the footer. -/
theorem bounds_of_frameOk {s : State} (h : frameOk s = true) : s.errOff < 512 ∧ s.cur ≤ 326 := by
  rcases hst : s.st
  case header =>
    obtain ⟨hoff, hcur, -⟩ := (frameOk_header hst).1 h
    omega
  case timeCode =>
    obtain ⟨hoff, hcur, -⟩ := (frameOk_timeCode hst).1 h
    omega
  case ccData =>
    obtain ⟨hoff, hsec, -⟩ := (frameOk_ccData hst).1 h
    have hcur := cur_le_of_sectionOk hsec
    omega
  case serviceInfo =>
    obtain ⟨hoff, hsec⟩ := (frameOk_serviceInfo hst).1 h
    have hcur := cur_le_of_sectionOk hsec
    omega
  all_goals exact (frameOk_pastSections (by rw [hst]; rfl)).1 h

/-! The bound of the state a section is left to. -/

section Leave

variable {t : State} {fl : Flags}

theorem frameOk_leave_serviceInfo (hoff : t.errOff < 512) (hcur : t.cur ≤ 326) (hst : t.st = nextFrame fl .serviceInfo) :
    frameOk t = true :=
  (frameOk_pastSections (by rw [hst]; rfl)).2 ⟨hoff, hcur⟩

theorem frameOk_leave_ccData (hoff : t.errOff < 512) (hcur : t.cur ≤ 107) (hsvc : t.pend.svc = none)
    (hst : t.st = nextFrame fl .ccData) : frameOk t = true := by
  by_cases hflag : fl.svc = 1
  · exact (frameOk_serviceInfo (hst.trans (if_pos hflag))).2 ⟨hoff, hsvc ▸ (sectionOk_none ..).2 hcur⟩
  · exact frameOk_leave_serviceInfo (fl := fl) hoff (by omega) (hst.trans (if_neg hflag))

theorem frameOk_leave_timeCode (hoff : t.errOff < 512) (hcur : t.cur ≤ 12) (hcc : t.pend.cc = none)
    (hsvc : t.pend.svc = none) (hst : t.st = nextFrame fl .timeCode) : frameOk t = true := by
  by_cases hflag : fl.cc = 1
  · exact (frameOk_ccData (hst.trans (if_pos hflag))).2 ⟨hoff, hcc ▸ (sectionOk_none ..).2 hcur, hsvc⟩
  · exact frameOk_leave_ccData (fl := fl) hoff (by omega) hsvc (hst.trans (if_neg hflag))

theorem frameOk_leave_header (hoff : t.errOff < 512) (hcur : t.cur ≤ 7) (hcc : t.pend.cc = none)
    (hsvc : t.pend.svc = none) (hst : t.st = nextFrame fl .header) : frameOk t = true := by
  by_cases hflag : fl.tc = 1
  · exact (frameOk_timeCode (hst.trans (if_pos hflag))).2 ⟨hoff, hcur, hcc, hsvc⟩
  · exact frameOk_leave_timeCode (fl := fl) hoff (by omega) hcc hsvc (hst.trans (if_neg hflag))

end Leave

/-- Behind an element of the cc-data section, with as many triplets read as the cursor says. -/
theorem frameOk_takeTriplets {s : State} (hst : s.st = .ccData) (hoff : s.errOff < 512) (hsvc : s.pend.svc = none)
    {k : Nat} {cnt : BitVec 5} {l : List Triplet} (hcur : k ≤ 14 + 3 * l.length) (hmost : l.length ≤ 31) :
    frameOk (takeTriplets s k cnt l) = true := by
  by_cases h : cnt.toNat ≤ l.length
  · rw [takeTriplets_last h]
    exact frameOk_leave_ccData hoff (by rw [advance_cur]; omega) hsvc (advance_st _ _ _)
  · rw [takeTriplets_more (Nat.not_le.1 h)]
    exact (frameOk_ccData (s := { s with pend := { s.pend with cc := some (cnt, l) }, cur := k }) hst).2
      ⟨hoff, (sectionOk_some ..).2 ⟨Nat.not_le.1 h, by omega⟩, hsvc⟩

/-- Behind an element of the service-info section, with as many entries read as the cursor says. -/
theorem frameOk_takeEntries {s : State} (hst : s.st = .serviceInfo) (hoff : s.errOff < 512)
    {k : Nat} {cnt : BitVec 5} {l : List SvcEntry} (hcur : k ≤ 109 + 7 * l.length) (hmost : l.length ≤ 31) :
    frameOk (takeEntries s k cnt l) = true := by
  by_cases h : cnt.toNat ≤ l.length
  · rw [takeEntries_last h]
    exact frameOk_leave_serviceInfo hoff (by rw [advance_cur]; omega) (advance_st _ _ _)
  · rw [takeEntries_more (Nat.not_le.1 h)]
    exact (frameOk_serviceInfo (s := { s with pend := { s.pend with svc := some (cnt, l) }, cur := k }) hst).2
      ⟨hoff, (sectionOk_some ..).2 ⟨Nat.not_le.1 h, by omega⟩⟩

/-- A failing check of the element due names an offset near the cursor, or the end of a buffer that is too short for
it. -/
theorem off_lt_of_dueChecks {s : State} {cs : List Check} {r : Raise} {m : Mode} {w : List Nat}
    (hdue : DueChecks cfg s cs) (hs : frameOk s = true) (hr : runChecks m w cs = .error r) : r.off < 512 := by
  have hcheck := runChecks_error hr
  have hcur := (bounds_of_frameOk hs).2
  obtain ⟨h1, h2, h3, h4, h5⟩ := sizes_cfg
  cases hdue
  case header e =>
    simp [hdrChecks, h1] at hcheck
    omega
  case timeCode e =>
    simp [tcChecks, expectChecks, h2] at hcheck
    omega
  case ccHead e =>
    simp [ccHeadChecks, countHeadChecks, expectChecks, h3] at hcheck
    omega
  case ccTriplet e =>
    simp [tripletChecks] at hcheck
    omega
  case svcHead hst hnone e =>
    obtain ⟨-, hsec⟩ := (frameOk_serviceInfo hst).1 hs
    replace hcur : s.cur ≤ 107 := (sectionOk_none ..).1 (hnone ▸ hsec)
    simp [svcHeadChecks, countHeadChecks, expectChecks, h4] at hcheck
    omega
  case footer e =>
    simp [ftrChecks, packetChecks, expectChecks, h5] at hcheck
    omega

theorem frameOk_wireStep {s t : State} (hs : frameOk s = true) (h : WireStep cfg s t) : frameOk t = true := by
  obtain ⟨hoff, hcur⟩ := bounds_of_frameOk hs
  obtain ⟨h1, h2, h3, h4, h5⟩ := sizes_cfg
  cases h
  case raised r hdue hr => exact (frameOk_pastSections rfl).2 ⟨off_lt_of_dueChecks hdue hs hr, hcur⟩
  case header hst w h =>
    obtain ⟨-, -, hcc, hsvc⟩ := (frameOk_header hst).1 hs
    exact frameOk_leave_header hoff (by rw [takeHeader, advance_cur, h1]) hcc hsvc (advance_st _ _ _)
  case timeCode hst w t =>
    obtain ⟨-, hcur, hcc, hsvc⟩ := (frameOk_timeCode hst).1 hs
    have hend : (takeTimeCode cfg { s with warn := w } t).cur ≤ 12 := by
      rw [takeTimeCode, advance_cur, h2]
      exact Nat.add_le_add_right hcur 5
    exact frameOk_leave_timeCode hoff hend hcc hsvc (advance_st _ _ _)
  case ccHead hst hnone w cnt =>
    obtain ⟨-, hsec, hsvc⟩ := (frameOk_ccData hst).1 hs
    have hcur : s.cur ≤ 12 := (sectionOk_none ..).1 (hnone ▸ hsec)
    exact frameOk_takeTriplets (s := { s with warn := w }) hst hoff hsvc (by simpa using hcur) (Nat.zero_le _)
  case ccTriplet hst cnt l hsome w t =>
    obtain ⟨-, hsec, hsvc⟩ := (frameOk_ccData hst).1 hs
    rw [hsome, sectionOk_some] at hsec
    obtain ⟨hlen, hcur⟩ := hsec
    refine frameOk_takeTriplets (s := { s with warn := w }) hst hoff hsvc ?_ ?_ <;>
      simp only [List.length_append, List.length_singleton] <;> omega
  case svcHead hst hnone w cnt =>
    obtain ⟨-, hsec⟩ := (frameOk_serviceInfo hst).1 hs
    have hcur : s.cur ≤ 107 := (sectionOk_none ..).1 (hnone ▸ hsec)
    exact frameOk_takeEntries (s := { s with warn := w }) hst hoff (by simpa using hcur) (Nat.zero_le _)
  case svcEntry hst cnt l hsome w e =>
    obtain ⟨-, hsec⟩ := (frameOk_serviceInfo hst).1 hs
    rw [hsome, sectionOk_some] at hsec
    obtain ⟨hlen, hcur⟩ := hsec
    refine frameOk_takeEntries (s := { s with warn := w }) hst hoff ?_ ?_ <;>
      simp only [List.length_append, List.length_singleton] <;> omega
  case footer hst hlen w p sum =>
    have hmost : s.cur + cfg.ftrBytes ≤ 326 := by omega
    exact (frameOk_pastSections rfl).2 ⟨hoff, hmost⟩

/-! The commands. -/

theorem frameOk_endEncode (s : State) (b : Bank) :
    frameOk (endEncode cfg (startEncode s) (encodePacket cfg (bankPkt cfg b))) = true := by
  rcases hx : encodePacket cfg (bankPkt cfg b) with r | bytes
  · have hstatus := endEncode_status cfg s (bankPkt cfg b)
    rw [hx] at hstatus
    obtain ⟨hoff, -⟩ : r.off = 0 ∧ _ := by simpa [endEncode] using hstatus
    have hlt : r.off < 512 := by omega
    exact (frameOk_pastSections rfl).2 ⟨hlt, Nat.zero_le _⟩
  · obtain ⟨-, -, hlen, hmost, -⟩ := encodePacket_layout rfl (entriesWhole_bankPkt rfl b) hx
    have hcur : bytes.length ≤ 326 := by omega
    exact (frameOk_pastSections rfl).2 ⟨Nat.zero_lt_succ 511, hcur⟩

/-- DECODE keeps the bounds: its small steps do. -/
theorem frameOk_commandDecode {s t : State} (h : commandDecode cfg s = .next t) : frameOk t = true := by
  obtain rfl := commandDecode_next h
  have hstart : frameOk (startDecode cfg s) = true := rfl
  refine runFramer_invariant (P := fun u => frameOk u = true) (fun u v hbusy hu hstep => ?_) hstart
    (runFramer_of_endsIn (endsIn_startDecode cfg s))
  obtain ⟨v', hnext, hwire⟩ := stepWith_busy cfg hbusy
  cases hnext.symm.trans hstep
  exact frameOk_wireStep hu hwire

theorem pastSections_of_ready {s : State} (h : busy s = false) : pastSections s.st = true := by
  cases hst : s.st <;> simp [busy, hst] at h ⊢ <;> rfl

/-- On the port stands no element and no internal operation. -/
theorem parseCmd_port (code : BitVec 3) :
    isWire (parseCmd code) = false ∧ isReader (parseCmd code) = false ∧ isEmitter (parseCmd code) = false := by
  revert code
  decide

/-- Settles O59: a step of a running decode is a wire element; otherwise it is a command. -/
theorem framingStaysInBounds : Obligations.FramingStaysInBounds := by
  intro s t hs h
  rw [step_eq_stepWith] at h
  cases hbusy : busy s
  case true =>
    obtain ⟨u, hnext, hwire⟩ := stepWith_busy cfg hbusy
    cases hnext.symm.trans h
    exact frameOk_wireStep hs hwire
  case false =>
    obtain ⟨hoff, hcur⟩ := bounds_of_frameOk hs
    obtain ⟨hnotWire, hnotReader, hnotEmitter⟩ := parseCmd_port s.cmd
    rw [stepWith, fetch_ready hbusy] at h
    generalize parseCmd s.cmd = i at *
    cases ran_of_exec h
    case wire hi _ => simp [hnotWire] at hi
    case reader hi _ => simp [hnotReader] at hi
    case emitter _ hi => simp [hnotEmitter] at hi
    case decode _ hrun => exact frameOk_commandDecode hrun
    case encode => exact frameOk_endEncode s s.f
    case ckCompute => exact (frameOk_pastSections rfl).2 ⟨Nat.zero_lt_succ 511, hcur⟩
    case ckValidate x =>
      exact (frameOk_pastSections (s := finishChecksum s x) (pastSections_of_ready hbusy)).2 ⟨Nat.zero_lt_succ 511, hcur⟩
    all_goals exact hs

end Sys2Proof.Machine
end

section
/-! What a `Done` decode delivers (spec/43_packet_decode.md R160, R166), and how DECODE ends on the machine. -/

namespace Sys2Proof.Machine

open Sys2Proof.Safety (entriesWhole)
open Sys2Proof.Laws.EncodedLength (legal_sizes)

section Delivered

variable {c : Cfg} {m : Mode} {w w' : List Nat} {buf : List Byte} {cur : Nat}

/-- A section is decoded where its flag calls for it, and nowhere else. -/
theorem optional_ok {α : Type} {p : Bit} {x : Except Abort (α × List Nat)} {o : Option α} :
    optional p w x = .ok (o, w') ↔
      (p = 1 ∧ ∃ a, o = some a ∧ x = .ok (a, w')) ∨ (p ≠ 1 ∧ o = none ∧ w' = w) := by
  by_cases hp : p = 1
  · rcases x with r | ⟨a, w1⟩
    · simp [optional, hp]
    · simp [optional, hp, and_comm, eq_comm]
  · simp only [optional_absent hp, hp, Except.ok.injEq, Prod.mk.injEq, false_and, ne_eq, not_false_eq_true, true_and,
      false_or, eq_comm]

theorem eq_zero_of_ne_one {p : Bit} (h : p ≠ 1) : p = 0 := by
  revert p
  decide

/-- The tag of a decoded member is its flag. -/
theorem tagOf_of_optional {α : Type} {p : Bit} {x : Except Abort (α × List Nat)} {o : Option α}
    (h : optional p w x = .ok (o, w')) : p = tagOf o := by
  rcases optional_ok.1 h with ⟨rfl, a, rfl, -⟩ | ⟨hp, rfl, -⟩
  · rfl
  · exact eq_zero_of_ne_one hp

/-- A decoded member satisfies what its section's decode guarantees. -/
theorem of_optional_some {α : Type} {p : Bit} {x : Except Abort (α × List Nat)} {o : Option α} {P : α → Prop}
    (h : optional p w x = .ok (o, w')) (hx : ∀ a, x = .ok (a, w') → P a) : ∀ a, o = some a → P a := by
  rintro a rfl
  rcases optional_ok.1 h with ⟨-, b, hb, hok⟩ | ⟨-, hnone, -⟩
  · cases hb
    exact hx _ hok
  · cases hnone

theorem hdrDecOf_regs {h : HeaderRegs} (hok : hdrDecOf c m w buf = .ok (h, w')) :
    h.id = c.magic ∧ c.validFrameRates.contains h.fr = true := by
  obtain ⟨hpass, rfl⟩ := yield_ok.1 hok
  simp only [hdrChecks, runChecks_must_ok] at hpass
  obtain ⟨-, -, -, hfr, -⟩ := hpass
  exact ⟨rfl, hfr⟩

/-- A head that passes has a count within its maximum. -/
theorem count_le_of_countHead {id : Byte} {mk : BitVec 3} {most size n : Nat} {e : CountHeadEl}
    (h : runChecks m w (countHeadChecks id mk most size n cur e) = .ok w') : e.count.toNat ≤ most := by
  simp only [countHeadChecks, expectChecks, List.cons_append, List.nil_append, runChecks_must_ok, runChecks_rsv_ok] at h
  obtain ⟨-, -, -, w1, -, hmost, -⟩ := h
  exact of_decide_eq_true hmost

theorem ccSectionOf_count {l : List Triplet} (hok : ccSectionOf c m w buf cur = .ok (l, w')) :
    l.length ≤ c.ccCountMax := by
  obtain ⟨w1, hpass, hl⟩ := ccSectionOf_ok.1 hok
  exact tripletsOf_length hl ▸ count_le_of_countHead hpass

theorem svcDecOf_count {l : List SvcEntry} (hok : svcDecOf c m w buf cur = .ok (l, w')) : l.length ≤ c.svcCountMax := by
  obtain ⟨hpass, rfl⟩ := yield_ok.1 hok
  exact entriesOf_length ▸ count_le_of_countHead hpass

theorem entriesOf_wf (hc : 1 ≤ c.svcEntryBytes) : ∀ {cnt cur : Nat}, (entriesOf c buf cnt cur).all (wfSvcEntry c) = true
  | 0, _ => rfl
  | cnt + 1, _ => by
    rw [entriesOf, List.all_cons, entriesOf_wf hc, sveDecOf, wfSvcEntry_parseSvcEntry hc]
    rfl

theorem svcDecOf_wf {l : List SvcEntry} (hc : 1 ≤ c.svcEntryBytes) (hok : svcDecOf c m w buf cur = .ok (l, w')) :
    l.all (wfSvcEntry c) = true := by
  obtain ⟨-, rfl⟩ := yield_ok.1 hok
  exact entriesOf_wf hc

theorem countFits_iff {α : Type} {o : Option (List α)} {most : Nat} :
    countFits o most = true ↔ ∀ l, o = some l → l.length ≤ most := by
  cases o <;> simp [countFits]

theorem entriesWhole_iff {p : Pkt} : entriesWhole c p = true ↔ ∀ l, p.svc = some l → l.all (wfSvcEntry c) = true := by
  unfold entriesWhole
  cases p.svc <;> simp

/-- The two counters of a `Done` decode are equal, and its consumed span has the sum 0. -/
theorem footerOf_sound {h : HeaderRegs} {tc : Option TimeCode} {cc : Option (List Triplet)}
    {svc : Option (List SvcEntry)} {d : Decoded} (hok : footerOf c m w buf cur h tc cc svc = .ok d) :
    d.pkt.fseq = h.hseq ∧ sum8 (buf.take d.consumed) = 0 := by
  obtain ⟨e, w1, w2, -, hpass, rfl⟩ := footerOf_ok.1 hok
  have hseq := runChecks_must_of_ok hpass (List.mem_cons_self ..)
  have hsum := runChecks_must_of_ok hpass (List.mem_cons_of_mem _ (List.mem_cons_self ..))
  exact ⟨beq_iff_eq.1 hseq, beq_iff_eq.1 hsum⟩

end Delivered

/-- Settles O12: each clause is a check that passed, or the gating of a section. -/
theorem doneDecodeIsWellFormed : Obligations.DoneDecodeIsWellFormed := by
  intro c m buf d hc hok
  obtain ⟨hhdr, htcs, hcct, hftr, hentry⟩ := legal_sizes hc
  obtain ⟨h, w0, tc, w1, cc, w2, svc, w3, hh, htc, hcc, hsvc, hf⟩ := decodePacket_ok.1 hok
  obtain ⟨hcons, hlen, hbuf⟩ := footerOf_consumed hf
  obtain ⟨hseq, hsum⟩ := footerOf_sound hf
  obtain ⟨e, w4, w5, -, -, rfl⟩ := footerOf_ok.1 hf
  obtain ⟨hid, hfr⟩ := hdrDecOf_regs hh
  have hbyte := h.len.isLt
  refine ⟨by omega, by omega, hbuf, hlen, hcons, tagOf_of_optional htc, tagOf_of_optional hcc, tagOf_of_optional hsvc,
    hseq, hid, hfr, ?_, ?_, ?_, hsum⟩
  · exact countFits_iff.2 (of_optional_some hcc fun l => ccSectionOf_count)
  · exact countFits_iff.2 (of_optional_some hsvc fun l hl => svcDecOf_count (atCur_ok.1 hl))
  · exact entriesWhole_iff.2 (of_optional_some hsvc fun l hl => svcDecOf_wf hentry (atCur_ok.1 hl))

/-! DECODE on the machine. -/

theorem exec_decode_ready {s : State} (h : busy s = false) :
    exec .decode s = .next (endDecode cfg (startDecode cfg s) (decodePacket cfg s.mode (operandBytes s))) :=
  (whenReady_ready h).trans (commandDecode_eq cfg s)

/-- Settles O10: the entries loaded have the width they are read with, and the sum of the consumed span is one of the
checks that passed. -/
theorem decodeEndsInDone : Obligations.DecodeEndsInDone := by
  intro s d hready hok
  obtain ⟨-, -, -, -, -, -, -, -, -, -, -, -, -, hwhole, hsum⟩ := doneDecodeIsWellFormed cfg s.mode _ d rfl hok
  rw [exec_decode_ready hready, hok]
  refine ⟨_, rfl, bankPkt_loadBank_of_wf _ (entriesWhole_iff.1 hwhole), ?_⟩
  have hspan : sum8 (spanOf (inBytes (startDecode cfg s)) 0 d.consumed) = 0 := hsum
  rw [endDecode, hspan]
  rfl

/-- Settles O11: the raise leaves what it should of the state the decode started in. -/
theorem decodeEndsInFailed : Obligations.DecodeEndsInFailed := by
  intro s a hready hok
  rw [exec_decode_ready hready, hok]
  exact ⟨_, rfl, rfl⟩

end Sys2Proof.Machine
end

section
/-! Lenient mode agrees with strict mode, but where strict mode refuses a reserved field (spec/43_packet_decode.md
R163). -/

namespace Sys2Proof.Machine

/-- Lenient mode answers as strict mode does, or strict mode has refused a reserved field. -/
def Agree {ε α : Type} (kindOf : ε → ErrKind) (strict lenient : Except ε α) : Prop :=
  lenient = strict ∨ ∃ e, strict = .error e ∧ kindOf e = .reservedBitMismatch

/-- The kind of a failed decode. -/
def abortKind (a : Abort) : ErrKind := a.raised.kind

/-- Answers that agree still do when the same is done with each of them. -/
theorem Agree.bind {ε α β : Type} {kindOf : ε → ErrKind} {x y : Except ε α} {f g : α → Except ε β}
    (h : Agree kindOf x y) (hfg : ∀ a, Agree kindOf (f a) (g a)) : Agree kindOf (x.bind f) (y.bind g) := by
  rcases h with rfl | ⟨e, rfl, hk⟩
  · rcases y with e | a
    · exact .inl rfl
    · exact hfg a
  · exact .inr ⟨e, rfl, hk⟩

/-! The decodes, each as what is done with the answer of its first part. -/

section Parts

variable {c : Cfg} {m : Mode} {w : List Nat} {buf : List Byte} {cur : Nat}

theorem yield_eq_bind {α : Type} {cs : List Check} {a : α} :
    yield m w cs a = (runChecks m w cs).bind fun w' => .ok (a, w') := by
  unfold yield
  cases runChecks m w cs <;> rfl

theorem optional_eq_bind {α : Type} {x : Except Abort (α × List Nat)} {p : Bit} (hp : p = 1) :
    optional p w x = x.bind fun q => .ok (some q.1, q.2) := by
  unfold optional
  rw [if_pos hp]
  cases x <;> rfl

theorem tripletsOf_eq_bind {k : Nat} :
    tripletsOf c m buf (k + 1) cur w = (atCur cur (cctDecOf c m w buf cur)).bind fun t =>
      (tripletsOf c m buf k (cur + c.cctBytes) t.2).bind fun ts => .ok (t.1 :: ts.1, ts.2) := by
  rw [tripletsOf]
  rcases atCur cur (cctDecOf c m w buf cur) with a | ⟨t, w1⟩
  · rfl
  · simp only [Except.bind]
    cases tripletsOf c m buf k (cur + c.cctBytes) w1 <;> rfl

/-- The triplets decode when the first does and those behind it do. -/
theorem tripletsOf_succ_ok {k : Nat} {w' : List Nat} {l : List Triplet} :
    tripletsOf c m buf (k + 1) cur w = .ok (l, w') ↔
      ∃ t w1 ts, cctDecOf c m w buf cur = .ok (t, w1) ∧ tripletsOf c m buf k (cur + c.cctBytes) w1 = .ok (ts, w') ∧
        l = t :: ts := by
  rw [tripletsOf_eq_bind]
  constructor
  · intro h
    rcases ht : atCur cur (cctDecOf c m w buf cur) with a | ⟨t, w1⟩ <;> rw [ht] at h
    · cases h
    · rcases hts : tripletsOf c m buf k (cur + c.cctBytes) w1 with a | ⟨ts, w2⟩ <;>
        simp only [hts, Except.bind] at h <;> cases h
      exact ⟨t, w1, ts, atCur_ok.1 ht, hts, rfl⟩
  · rintro ⟨t, w1, ts, ht, hts, rfl⟩
    simp only [atCur_ok.2 ht, hts, Except.bind]

theorem ccSectionOf_eq_bind :
    ccSectionOf c m w buf cur =
      (atCur cur (runChecks m w (ccHeadChecks c buf.length cur (parseCountHead (spanOf buf cur 2))))).bind fun w' =>
        tripletsOf c m buf (parseCountHead (spanOf buf cur 2)).count.toNat (cur + 2) w' := by
  rw [ccSectionOf]
  cases atCur cur (runChecks m w (ccHeadChecks c buf.length cur (parseCountHead (spanOf buf cur 2)))) <;> rfl

theorem footerOf_eq_bind {h : HeaderRegs} {tc : Option TimeCode} {cc : Option (List Triplet)}
    {svc : Option (List SvcEntry)} :
    footerOf c m w buf cur h tc cc svc = (ftrDecOf c m w buf cur).bind fun e =>
      (runChecks m e.2 (packetChecks cur (cur + c.ftrBytes) (sum8 (spanOf buf 0 (cur + c.ftrBytes))) h e.1)).bind fun w' =>
        .ok ⟨⟨h, tc, cc, svc, e.1.fseq, e.1.cksum⟩, cur + c.ftrBytes, w'⟩ := by
  rw [footerOf]
  rcases ftrDecOf c m w buf cur with r | ⟨e, w1⟩
  · rfl
  · simp only [Except.bind]
    cases runChecks m w1 (packetChecks cur (cur + c.ftrBytes) (sum8 (spanOf buf 0 (cur + c.ftrBytes))) h e) <;> rfl

theorem restSvc_eq_bind {h : HeaderRegs} {tc : Option TimeCode} {cc : Option (List Triplet)} :
    restSvc c m buf h tc cc cur w = (optional h.flags.svc w (atCur cur (svcDecOf c m w buf cur))).bind fun q =>
      restFooter c m buf h tc cc q.1 (cur + svcSize c q.1) q.2 := by
  rw [restSvc]
  cases optional h.flags.svc w (atCur cur (svcDecOf c m w buf cur)) <;> rfl

theorem restCc_eq_bind {h : HeaderRegs} {tc : Option TimeCode} :
    restCc c m buf h tc cur w = (optional h.flags.cc w (ccSectionOf c m w buf cur)).bind fun q =>
      restSvc c m buf h tc q.1 (cur + ccSize c q.1) q.2 := by
  rw [restCc]
  cases optional h.flags.cc w (ccSectionOf c m w buf cur) <;> rfl

theorem restTc_eq_bind {h : HeaderRegs} :
    restTc c m buf h cur w = (optional h.flags.tc w (atCur cur (tcDecOf c m w buf cur))).bind fun q =>
      restCc c m buf h q.1 (cur + tcSize c q.1) q.2 := by
  rw [restTc]
  cases optional h.flags.tc w (atCur cur (tcDecOf c m w buf cur)) <;> rfl

theorem decodePacket_eq_bind :
    decodePacket c m buf = (atCur 0 (hdrDecOf c m [] buf)).bind fun h => restTc c m buf h.1 c.hdrBytes h.2 := by
  rw [decodePacket_eq]
  cases hdrDecOf c m [] buf <;> rfl

end Parts

/-! The parts agree, and so do the wholes. -/

section Policies

variable (c : Cfg) (w : List Nat) (buf : List Byte) (cur : Nat)

theorem agree_runChecks (cs : List Check) : Agree Raise.kind (runChecks .strict w cs) (runChecks .lenient w cs) := by
  induction cs with
  | nil => exact .inl rfl
  | cons ch cs ih =>
    rcases ch with ⟨ok, k, o⟩ | ⟨ok, o⟩ <;> cases ok
    · exact .inl rfl
    · exact ih
    · exact .inr ⟨_, rfl, rfl⟩
    · exact ih

theorem agree_yield {α : Type} (cs : List Check) (a : α) :
    Agree Raise.kind (yield .strict w cs a) (yield .lenient w cs a) := by
  rw [yield_eq_bind, yield_eq_bind]
  exact (agree_runChecks w cs).bind fun w' => .inl rfl

theorem Agree.atCur {α : Type} {x y : Except Raise α} (h : Agree Raise.kind x y) :
    Agree abortKind (atCur cur x) (Machine.atCur cur y) := by
  rcases h with rfl | ⟨r, rfl, hk⟩
  · exact .inl rfl
  · exact .inr ⟨⟨r, cur⟩, rfl, hk⟩

theorem Agree.optional {α : Type} {x y : Except Abort (α × List Nat)} (h : Agree abortKind x y) (p : Bit) :
    Agree abortKind (optional p w x) (Machine.optional p w y) := by
  by_cases hp : p = 1
  · rw [optional_eq_bind hp, optional_eq_bind hp]
    exact h.bind fun q => .inl rfl
  · rw [optional_absent hp, optional_absent hp]
    exact .inl rfl

theorem agree_tripletsOf (k : Nat) : ∀ (cur : Nat) (w : List Nat),
    Agree abortKind (tripletsOf c .strict buf k cur w) (tripletsOf c .lenient buf k cur w) := by
  induction k with
  | zero => exact fun _ _ => .inl rfl
  | succ k ih =>
    intro cur w
    rw [tripletsOf_eq_bind, tripletsOf_eq_bind]
    exact ((agree_yield w _ _).atCur cur).bind fun t => (ih _ _).bind fun ts => .inl rfl

theorem agree_ccSectionOf : Agree abortKind (ccSectionOf c .strict w buf cur) (ccSectionOf c .lenient w buf cur) := by
  rw [ccSectionOf_eq_bind, ccSectionOf_eq_bind]
  exact ((agree_runChecks w _).atCur cur).bind fun w' => agree_tripletsOf c buf _ _ w'

variable (h : HeaderRegs) (tc : Option TimeCode) (cc : Option (List Triplet)) (svc : Option (List SvcEntry))

theorem agree_restFooter :
    Agree abortKind (restFooter c .strict buf h tc cc svc cur w) (restFooter c .lenient buf h tc cc svc cur w) := by
  refine Agree.atCur cur ?_
  rw [footerOf_eq_bind, footerOf_eq_bind]
  exact (agree_yield w _ _).bind fun e => (agree_runChecks e.2 _).bind fun w' => .inl rfl

theorem agree_restSvc : Agree abortKind (restSvc c .strict buf h tc cc cur w) (restSvc c .lenient buf h tc cc cur w) := by
  rw [restSvc_eq_bind, restSvc_eq_bind]
  exact (((agree_yield w _ _).atCur cur).optional w _).bind fun q => agree_restFooter ..

theorem agree_restCc : Agree abortKind (restCc c .strict buf h tc cur w) (restCc c .lenient buf h tc cur w) := by
  rw [restCc_eq_bind, restCc_eq_bind]
  exact ((agree_ccSectionOf c w buf cur).optional w _).bind fun q => agree_restSvc ..

theorem agree_restTc : Agree abortKind (restTc c .strict buf h cur w) (restTc c .lenient buf h cur w) := by
  rw [restTc_eq_bind, restTc_eq_bind]
  exact (((agree_yield w _ _).atCur cur).optional w _).bind fun q => agree_restCc ..

theorem agree_decodePacket : Agree abortKind (decodePacket c .strict buf) (decodePacket c .lenient buf) := by
  rw [decodePacket_eq_bind, decodePacket_eq_bind]
  exact ((agree_yield [] _ _).atCur 0).bind fun h => agree_restTc ..

end Policies

/-! A strict decode records no warning. -/

section Strict

variable {c : Cfg} {w w' : List Nat} {buf : List Byte}

theorem warn_of_yield_strict {α : Type} {cs : List Check} {a b : α} (h : yield .strict w cs a = .ok (b, w')) : w' = w :=
  (runChecks_strict_ok (yield_ok.1 h).1).1

theorem warn_of_optional {α : Type} {p : Bit} {x : Except Abort (α × List Nat)} {o : Option α}
    (h : optional p w x = .ok (o, w')) (hx : ∀ a, x = .ok (a, w') → w' = w) : w' = w := by
  rcases optional_ok.1 h with ⟨-, a, -, hok⟩ | ⟨-, -, hw⟩
  · exact hx a hok
  · exact hw

theorem warn_of_tripletsOf_strict : ∀ {k cur : Nat} {w w' : List Nat} {l : List Triplet},
    tripletsOf c .strict buf k cur w = .ok (l, w') → w' = w
  | 0, _, _, _, _, h => by
    cases h
    rfl
  | k + 1, cur, w, w', l, h => by
    obtain ⟨t, w1, ts, ht, hts, rfl⟩ := tripletsOf_succ_ok.1 h
    rw [warn_of_tripletsOf_strict hts, warn_of_yield_strict ht]

theorem warn_of_ccSectionOf_strict {cur : Nat} {l : List Triplet} (h : ccSectionOf c .strict w buf cur = .ok (l, w')) :
    w' = w := by
  obtain ⟨w1, hpass, hl⟩ := ccSectionOf_ok.1 h
  rw [warn_of_tripletsOf_strict hl, (runChecks_strict_ok hpass).1]

theorem warn_of_decodePacket_strict {d : Decoded} (hok : decodePacket c .strict buf = .ok d) : d.warn = [] := by
  obtain ⟨h, w0, tc, w1, cc, w2, svc, w3, hh, htc, hcc, hsvc, hf⟩ := decodePacket_ok.1 hok
  obtain ⟨e, w4, w5, hftr, hpass, rfl⟩ := footerOf_ok.1 hf
  calc w5 = w4 := (runChecks_strict_ok hpass).1
    _ = w3 := warn_of_yield_strict hftr
    _ = w2 := warn_of_optional hsvc fun l hl => warn_of_yield_strict (atCur_ok.1 hl)
    _ = w1 := warn_of_optional hcc fun l => warn_of_ccSectionOf_strict
    _ = w0 := warn_of_optional htc fun t ht => warn_of_yield_strict (atCur_ok.1 ht)
    _ = [] := warn_of_yield_strict hh

end Strict

/-- Settles O14: the two policies differ on a reserved field alone, and strict mode ends there. -/
theorem lenientAgreesWithStrict : Obligations.LenientAgreesWithStrict := by
  intro c buf
  rcases agree_decodePacket c buf with heq | ⟨a, ha, hk⟩
  · exact ⟨fun d hd => ⟨heq.trans hd, warn_of_decodePacket_strict hd⟩, fun a ha _ => heq.trans ha⟩
  · refine ⟨fun d hd => ?_, fun b hb hne => ?_⟩
    · cases ha.symm.trans hd
    · cases ha.symm.trans hb
      exact absurd hk hne

end Sys2Proof.Machine
end

section
/-! The order of the warnings (spec/10_state.md R36), and the identifier of the first section
(spec/43_packet_decode.md R167, R168). -/

namespace Sys2Proof.Machine

open Sys2Proof.Safety (firstSectionId warnIf)
open Sys2Proof.Laws.EncodedLength (legal_sizes)

/-! Rising offsets. -/

/-- Rising offsets from `lo` on and below `hi`, at most `k` of them. -/
structure Rising (lo hi k : Nat) (l : List Nat) : Prop where
  pairwise : l.Pairwise (· < ·)
  within : ∀ o ∈ l, lo ≤ o ∧ o < hi
  length_le : l.length ≤ k

theorem Rising.nil (lo hi : Nat) : Rising lo hi 0 [] :=
  ⟨.nil, by simp, le_rfl⟩

theorem Rising.append {lo mid hi k j : Nat} {a b : List Nat} (ha : Rising lo mid k a) (hb : Rising mid hi j b)
    (hlo : lo ≤ mid) (hhi : mid ≤ hi) : Rising lo hi (k + j) (a ++ b) where
  pairwise := List.pairwise_append.2 ⟨ha.pairwise, hb.pairwise, fun x hx y hy =>
    (ha.within x hx).2.trans_le (hb.within y hy).1⟩
  within o ho := by
    rcases List.mem_append.1 ho with h | h
    · have := ha.within o h
      omega
    · have := hb.within o h
      omega
  length_le := by
    rw [List.length_append]
    exact Nat.add_le_add ha.length_le hb.length_le

theorem Rising.sublist {lo hi k : Nat} {a b : List Nat} (hb : Rising lo hi k b) (h : a.Sublist b) : Rising lo hi k a where
  pairwise := hb.pairwise.sublist h
  within o ho := hb.within o (h.subset ho)
  length_le := h.length_le.trans hb.length_le

theorem Rising.mono {lo hi hi' k k' : Nat} {a : List Nat} (h : Rising lo hi k a) (hhi : hi ≤ hi') (hk : k ≤ k') :
    Rising lo hi' k' a where
  pairwise := h.pairwise
  within o ho := ⟨(h.within o ho).1, (h.within o ho).2.trans_le hhi⟩
  length_le := h.length_le.trans hk

/-- The offsets of the reserved fields of a list of checks. -/
def rsvOffsets (cs : List Check) : List Nat :=
  cs.filterMap fun
    | .must _ _ _ => none
    | .rsv _ o => some o

/-- A list of checks that passes adds warnings at reserved fields of it, in their order. -/
theorem runChecks_warn {m : Mode} {w w' : List Nat} {cs : List Check} (h : runChecks m w cs = .ok w') :
    ∃ ws, w' = w ++ ws ∧ ws.Sublist (rsvOffsets cs) := by
  induction cs generalizing w with
  | nil =>
    cases h
    exact ⟨[], (List.append_nil _).symm, .slnil⟩
  | cons ch cs ih =>
    rcases ch with ⟨ok, k, o⟩ | ⟨ok, o⟩
    case must => exact ih (runChecks_must_ok.1 h).2
    case rsv =>
      rw [runChecks_rsv] at h
      split_ifs at h
      obtain ⟨ws, rfl, hws⟩ := ih h
      refine ⟨warnIf (!ok) o ++ ws, List.append_assoc .., ?_⟩
      exact List.Sublist.append (l₂ := [o]) (by cases ok <;> simp [warnIf]) hws

section Sections

variable {c : Cfg} {m : Mode} {w w' : List Nat} {buf : List Byte} {lo cur k : Nat}

/-- Warnings that rise up to an element rise up to its end. -/
theorem Rising.runChecks {cs : List Check} {hi j : Nat} (h : Rising lo cur k w) (hok : runChecks m w cs = .ok w')
    (hcs : Rising cur hi j (rsvOffsets cs)) (hlo : lo ≤ cur) (hhi : cur ≤ hi) : Rising lo hi (k + j) w' := by
  obtain ⟨ws, rfl, hws⟩ := runChecks_warn hok
  exact h.append (hcs.sublist hws) hlo hhi

theorem rising_hdrChecks {n : Nat} (e : HeaderEl) : Rising 3 7 2 (rsvOffsets (hdrChecks c n e)) :=
  ⟨by simp [rsvOffsets, hdrChecks], by simp [rsvOffsets, hdrChecks], le_rfl⟩

theorem rising_tcChecks {n : Nat} (e : TimeCodeEl) : Rising cur (cur + 5) 3 (rsvOffsets (tcChecks c n cur e)) :=
  ⟨by simp [rsvOffsets, tcChecks, expectChecks], by simp [rsvOffsets, tcChecks, expectChecks], le_rfl⟩

theorem rising_countHeadChecks {id : Byte} {mk : BitVec 3} {most size n : Nat} (e : CountHeadEl) :
    Rising cur (cur + 2) 1 (rsvOffsets (countHeadChecks id mk most size n cur e)) :=
  ⟨by simp [rsvOffsets, countHeadChecks, expectChecks], by simp [rsvOffsets, countHeadChecks, expectChecks], le_rfl⟩

theorem rising_tripletChecks (e : TripletEl) : Rising cur (cur + 3) 1 (rsvOffsets (tripletChecks c cur e)) :=
  ⟨by simp [rsvOffsets, tripletChecks], by simp [rsvOffsets, tripletChecks], le_rfl⟩

theorem Rising.tripletsOf (hsize : c.cctBytes = 3) : ∀ {cnt cur k : Nat} {w : List Nat} {l : List Triplet},
    Rising lo cur k w → lo ≤ cur → tripletsOf c m buf cnt cur w = .ok (l, w') →
      Rising lo (cur + 3 * cnt) (k + cnt) w'
  | 0, _, _, _, _, h, _, hok => by
    cases hok
    exact h
  | cnt + 1, cur, k, w, l, h, hlo, hok => by
    obtain ⟨t, w1, ts, ht, hts, -⟩ := tripletsOf_succ_ok.1 hok
    have h1 := h.runChecks (yield_ok.1 ht).1 (rising_tripletChecks _) hlo (by omega)
    rw [hsize] at hts
    exact (h1.tripletsOf hsize (by omega) hts).mono (by omega) (by omega)

theorem Rising.ccSectionOf {l : List Triplet} (hsize : c.cctBytes = 3) (h : Rising lo cur k w) (hlo : lo ≤ cur)
    (hok : ccSectionOf c m w buf cur = .ok (l, w')) : Rising lo (cur + ccSize c (some l)) (k + 32) w' := by
  obtain ⟨w1, hpass, hl⟩ := ccSectionOf_ok.1 hok
  have h1 := h.runChecks hpass (rising_countHeadChecks _) hlo (by omega)
  have hcount := (parseCountHead (spanOf buf cur 2)).count.isLt
  refine (h1.tripletsOf hsize (by omega) hl).mono ?_ (by omega)
  rw [ccSize, tripletsOf_length hl, hsize]
  omega

theorem Rising.svcDecOf {l : List SvcEntry} (h : Rising lo cur k w) (hlo : lo ≤ cur)
    (hok : svcDecOf c m w buf cur = .ok (l, w')) : Rising lo (cur + svcSize c (some l)) (k + 1) w' := by
  refine (h.runChecks (yield_ok.1 hok).1 (rising_countHeadChecks _) hlo (by omega)).mono ?_ le_rfl
  rw [svcSize]
  omega

/-- Warnings that rise up to a section rise up to its end, whether it is there or not. -/
theorem Rising.optional {α : Type} {p : Bit} {x : Except Abort (α × List Nat)} {o : Option α} {j : Nat}
    {size : Option α → Nat} (h : Rising lo cur k w) (hok : optional p w x = .ok (o, w'))
    (hx : ∀ a, x = .ok (a, w') → Rising lo (cur + size (some a)) (k + j) w') : Rising lo (cur + size o) (k + j) w' := by
  rcases optional_ok.1 hok with ⟨-, a, rfl, ha⟩ | ⟨-, -, rfl⟩
  · exact hx a ha
  · exact h.mono (by omega) (by omega)

end Sections

/-- Settles O15: the reserved fields of a packet stand at rising offsets, 2 of the header, 3 of the time code, 32 of the
cc-data section and one of the service-info section. -/
theorem warningsAreInWireOrder : Obligations.WarningsAreInWireOrder := by
  intro c m buf d hc hok
  obtain ⟨hhdr, htcs, hcct, hftr, -⟩ := legal_sizes hc
  have hstrict : m = .strict → d.warn = [] := by
    rintro rfl
    exact warn_of_decodePacket_strict hok
  obtain ⟨h, w0, tc, w1, cc, w2, svc, w3, hh, htc, hcc, hsvc, hf⟩ := decodePacket_ok.1 hok
  obtain ⟨e, w4, w5, hfe, hpkt, rfl⟩ := footerOf_ok.1 hf
  have h0 : Rising 3 c.hdrBytes 2 w0 :=
    hhdr ▸ (Rising.nil 3 3).runChecks (yield_ok.1 hh).1 (rising_hdrChecks _) le_rfl (by omega)
  have h1 : Rising 3 (c.hdrBytes + tcSize c tc) (2 + 3) w1 := h0.optional htc fun t ht =>
    (h0.runChecks (yield_ok.1 (atCur_ok.1 ht)).1 (rising_tcChecks _) (by omega) (by omega)).mono
      (Nat.add_le_add_left htcs.ge _) le_rfl
  have h2 : Rising 3 (c.hdrBytes + tcSize c tc + ccSize c cc) (2 + 3 + 32) w2 := h1.optional hcc fun l hl =>
    h1.ccSectionOf hcct (by omega) hl
  have h3 : Rising 3 (c.hdrBytes + tcSize c tc + ccSize c cc + svcSize c svc) (2 + 3 + 32 + 1) w3 :=
    h2.optional hsvc fun l hl => h2.svcDecOf (by omega) (atCur_ok.1 hl)
  have h4 := (h3.runChecks (yield_ok.1 hfe).1 (.nil _ _) (by omega) le_rfl).runChecks hpkt (.nil _ _) (by omega)
    (Nat.le_add_right _ c.ftrBytes)
  exact ⟨h4.pairwise, h4.length_le, h4.within, hstrict⟩

/-! The first section. -/

theorem byteAt_spanOf_zero (buf : List Byte) (a : Nat) {k : Nat} (hk : 0 < k) :
    byteAt (spanOf buf a k) 0 = byteAt buf a := by
  simp [byteAt, spanOf, hk]

theorem countHead_id (buf : List Byte) (cur : Nat) : (parseCountHead (spanOf buf cur 2)).id = byteAt buf cur :=
  (byteField_byte _).trans (byteAt_spanOf_zero _ _ Nat.two_pos)

section WrongIdentifier

variable {c : Cfg} {buf : List Byte} {cur : Nat} (m : Mode) (w : List Nat) (hlen : cur + 1 ≤ buf.length)
include hlen

/-- A section whose first byte is another identifier fails there, whatever its other checks are. -/
theorem runChecks_wrongId {id found : Byte} (hid : found ≠ id) (cs : List Check) :
    runChecks m w (expectChecks id found buf.length cur ++ cs) = .error ⟨.unexpectedSectionId, cur⟩ := by
  rw [runChecks_append, runChecks_expectChecks, if_neg (Nat.not_lt.2 hlen), if_pos hid]

theorem tcDecOf_wrongId (hc : c.legal = true) (hid : byteAt buf cur ≠ c.idTimecode) :
    tcDecOf c m w buf cur = .error ⟨.unexpectedSectionId, cur⟩ := by
  obtain ⟨-, htcs, -⟩ := legal_sizes hc
  have hfound : (parseTimeCode (spanOf buf cur c.tcBytes)).id = byteAt buf cur :=
    (byteField_byte _).trans (byteAt_spanOf_zero _ _ (by omega))
  exact yield_error.2 (runChecks_wrongId m w hlen (hfound ▸ hid) _)

theorem ccSectionOf_wrongId (hid : byteAt buf cur ≠ c.idCcdata) :
    ccSectionOf c m w buf cur = .error ⟨⟨.unexpectedSectionId, cur⟩, cur⟩ := by
  rw [ccSectionOf_eq_bind, ccHeadChecks, countHeadChecks,
    runChecks_wrongId m w hlen ((countHead_id buf cur).symm ▸ hid)]
  rfl

theorem svcDecOf_wrongId (hid : byteAt buf cur ≠ c.idSvcinfo) :
    svcDecOf c m w buf cur = .error ⟨.unexpectedSectionId, cur⟩ :=
  yield_error.2 (runChecks_wrongId m w hlen ((countHead_id buf cur).symm ▸ hid) _)

theorem footerOf_wrongId (hc : c.legal = true) (hid : byteAt buf cur ≠ c.idFooter) (h : HeaderRegs)
    (tc : Option TimeCode) (cc : Option (List Triplet)) (svc : Option (List SvcEntry)) :
    footerOf c m w buf cur h tc cc svc = .error ⟨.unexpectedSectionId, cur⟩ := by
  obtain ⟨-, -, -, hsize, -⟩ := legal_sizes hc
  have hfound : (parseFooter (spanOf buf cur c.ftrBytes)).id = byteAt buf cur :=
    (byteField_byte _).trans (byteAt_spanOf_zero _ _ (by omega))
  have hftr : ftrDecOf c m w buf cur = .error ⟨.unexpectedSectionId, cur⟩ :=
    yield_error.2 (runChecks_wrongId m w hlen (hfound ▸ hid) _)
  rw [footerOf_eq_bind, hftr]
  rfl

end WrongIdentifier

/-- Settles O16: the first flag set names the section that is decoded first, at offset 7. -/
theorem firstSectionMustCarryItsIdentifier : Obligations.FirstSectionMustCarryItsIdentifier := by
  intro c m buf h w hc hh hlen hid
  obtain ⟨hhdr, -⟩ := legal_sizes hc
  rw [decodePacket_eq_bind, atCur_ok.2 hh, hhdr]
  rw [firstSectionId] at hid
  change restTc c m buf h 7 w = _
  by_cases htc : h.flags.tc = 1
  · rw [if_pos htc] at hid
    rw [restTc_eq_bind, optional_eq_bind htc, tcDecOf_wrongId m w hlen hc hid]
    rfl
  rw [if_neg htc] at hid
  rw [restTc_eq_bind, optional_absent htc]
  change restCc c m buf h none 7 w = _
  by_cases hcc : h.flags.cc = 1
  · rw [if_pos hcc] at hid
    rw [restCc_eq_bind, optional_eq_bind hcc, ccSectionOf_wrongId m w hlen hid]
    rfl
  rw [if_neg hcc] at hid
  rw [restCc_eq_bind, optional_absent hcc]
  change restSvc c m buf h none none 7 w = _
  by_cases hsvc : h.flags.svc = 1
  · rw [if_pos hsvc] at hid
    rw [restSvc_eq_bind, optional_eq_bind hsvc, svcDecOf_wrongId m w hlen hid]
    rfl
  rw [if_neg hsvc] at hid
  rw [restSvc_eq_bind, optional_absent hsvc]
  change atCur 7 (footerOf c m w buf 7 h none none none) = _
  rw [footerOf_wrongId m w hlen hc hid]
  rfl

end Sys2Proof.Machine
end

section
/-! Sections where they stand in a buffer: what an encoder wrote is decoded in either mode, and what strict mode decodes
is what an encoder writes (spec/44_packet_encode.md R179, spec/30_encoding.md R86). -/

namespace Sys2Proof.Machine

open Sys2Proof.Laws.EncodedLength (legal_sizes)

/-! Bytes in their place. -/

/-- These bytes stand in a buffer from `cur` on. -/
structure StandsAt (buf : List Byte) (cur : Nat) (bs : List Byte) : Prop where
  within : cur + bs.length ≤ buf.length
  span : spanOf buf cur bs.length = bs

section Places

variable {buf : List Byte} {cur : Nat}

theorem spanOf_add (buf : List Byte) (a i j : Nat) : spanOf buf a (i + j) = spanOf buf a i ++ spanOf buf (a + i) j := by
  simp only [spanOf, List.take_add, List.drop_drop]

theorem spanOf_length {a k : Nat} (h : a + k ≤ buf.length) : (spanOf buf a k).length = k := by
  simp only [spanOf, List.length_take, List.length_drop]
  omega

/-- Bytes stand in a buffer in sequence when each part does in its place. -/
theorem standsAt_append {a b : List Byte} :
    StandsAt buf cur (a ++ b) ↔ StandsAt buf cur a ∧ StandsAt buf (cur + a.length) b := by
  constructor
  · rintro ⟨hwithin, hspan⟩
    rw [List.length_append] at hwithin hspan
    rw [spanOf_add] at hspan
    obtain ⟨ha, hb⟩ := List.append_inj hspan (spanOf_length (by omega))
    exact ⟨⟨by omega, ha⟩, by omega, hb⟩
  · rintro ⟨ha, hb⟩
    have hwithin := hb.within
    constructor
    · rw [List.length_append]
      omega
    · rw [List.length_append, spanOf_add, ha.span, hb.span]

theorem standsAt_nil (h : cur ≤ buf.length) : StandsAt buf cur [] :=
  ⟨h, List.take_zero⟩

/-- A span of a buffer stands there. -/
theorem standsAt_spanOf {k : Nat} (h : cur + k ≤ buf.length) : StandsAt buf cur (spanOf buf cur k) := by
  constructor <;> rw [spanOf_length h]
  exact h

theorem StandsAt.span_eq {bs : List Byte} {k : Nat} (h : StandsAt buf cur bs) (hk : bs.length = k) :
    spanOf buf cur k = bs :=
  hk ▸ h.span

/-- A buffer starts with its front. -/
theorem standsAt_front (bs rest : List Byte) : StandsAt (bs ++ rest) 0 bs :=
  ⟨by simp, List.take_left⟩

end Places

section Sections

variable {c : Cfg} {m : Mode} {w w' : List Nat} {buf : List Byte} {cur : Nat}

/-! What an encoder wrote is decoded, in either mode and without a warning. -/

theorem hdrDecOf_of_standsAt {h : HeaderRegs} {len : Byte} (hc : c.legal = true)
    (hs : StandsAt buf 0 (encodeHeader (headerElOf c len h))) (hfr : c.validFrameRates.contains h.fr = true)
    (hlen : len.toNat ≤ buf.length) : hdrDecOf c m w buf = .ok ({ h with id := c.magic, len := len }, w) := by
  obtain ⟨hhdr, -⟩ := legal_sizes hc
  have hwithin := hs.within
  rw [encodeHeader_length] at hwithin
  rw [hdrDecOf, hs.span_eq (by rw [encodeHeader_length, hhdr]), parseHeader_encodeHeader]
  refine yield_ok.2 ⟨runChecks_of_all _ _ ?_, rfl⟩
  simp only [hdrChecks, List.all_cons, checkHolds, headerElOf, hfr, beq_self_eq_true, List.all_nil, Bool.and_true,
    Bool.and_eq_true, decide_eq_true_eq, true_and]
  exact ⟨by omega, decide_eq_true hlen⟩

theorem tcDecOf_of_standsAt {t : TimeCode} (hc : c.legal = true) (hs : StandsAt buf cur (tcEncOf c t)) :
    tcDecOf c m w buf cur = .ok (t, w) := by
  obtain ⟨-, htcs, -⟩ := legal_sizes hc
  have hsize : (tcEncOf c t).length = 5 := encodeTimeCode_length _
  have hwithin := hs.within
  rw [tcDecOf, hs.span_eq (hsize.trans htcs.symm), tcEncOf, parseTimeCode_encodeTimeCode]
  refine yield_ok.2 ⟨runChecks_of_all _ _ ?_, rfl⟩
  simp only [tcChecks, expectChecks, timeCodeElOf, List.cons_append, List.nil_append, List.all_cons, checkHolds,
    beq_self_eq_true, List.all_nil, Bool.and_true, Bool.and_eq_true, decide_eq_true_eq, true_and]
  omega

theorem cctDecOf_of_standsAt {t : Triplet} (hc : c.legal = true) (hs : StandsAt buf cur (cctEncOf c t)) :
    cctDecOf c m w buf cur = .ok (t, w) := by
  obtain ⟨-, -, hcct, -⟩ := legal_sizes hc
  have hsize : (cctEncOf c t).length = 3 := encodeTriplet_length _
  rw [cctDecOf, hs.span_eq (hsize.trans hcct.symm), cctEncOf, parseTriplet_encodeTriplet]
  exact yield_ok.2 ⟨runChecks_of_all _ _ (by simp [tripletChecks, checkHolds, tripletElOf]), rfl⟩

theorem tripletsOf_of_standsAt (hc : c.legal = true) : ∀ {l : List Triplet} {cur : Nat},
    StandsAt buf cur (l.flatMap (cctEncOf c)) → tripletsOf c m buf l.length cur w = .ok (l, w)
  | [], _, _ => rfl
  | t :: l, cur, hs => by
    obtain ⟨-, -, hcct, -⟩ := legal_sizes hc
    have hsize : (cctEncOf c t).length = c.cctBytes := (encodeTriplet_length _).trans hcct.symm
    obtain ⟨ht, hl⟩ := standsAt_append.1 hs
    exact tripletsOf_succ_ok.2
      ⟨t, w, l, cctDecOf_of_standsAt hc ht, tripletsOf_of_standsAt hc (hsize ▸ hl), rfl⟩

theorem entriesOf_of_standsAt : ∀ {l : List SvcEntry} {cur : Nat}, l.all (wfSvcEntry c) = true →
    1 ≤ c.svcEntryBytes → StandsAt buf cur (l.flatMap (sveEncOf c)) → entriesOf c buf l.length cur = l
  | [], _, _, _, _ => rfl
  | e :: l, cur, hwf, hc, hs => by
    simp only [List.all_cons, Bool.and_eq_true] at hwf
    obtain ⟨he, hl⟩ := hwf
    have hsize : (sveEncOf c e).length = c.svcEntryBytes := encodeSvcEntry_length he
    obtain ⟨hse, hsl⟩ := standsAt_append.1 hs
    rw [List.length_cons, entriesOf, sveDecOf, hse.span_eq hsize, sveEncOf, parseSvcEntry_encodeSvcEntry he,
      entriesOf_of_standsAt hl hc (hsize ▸ hsl)]

/-- The checks of a counted section's head hold where an encoder wrote it with its entries behind it. -/
theorem countHeadChecks_hold {id : Byte} {mk : BitVec 3} {most size n : Nat} {count : BitVec 5}
    {k : Nat} (hcount : count.toNat = k) (hmost : k ≤ most) (hn : cur + 2 + size * k ≤ n) :
    (countHeadChecks id mk most size n cur ⟨id, mk, count⟩).all checkHolds = true := by
  simp only [countHeadChecks, expectChecks, List.cons_append, List.nil_append, List.all_cons, checkHolds,
    beq_self_eq_true, List.all_nil, Bool.and_true, Bool.and_eq_true, decide_eq_true_eq, true_and, hcount]
  omega

theorem legal_counts (hc : c.legal = true) : c.ccCountMax ≤ 31 ∧ c.svcCountMax ≤ 31 := by
  simp only [Cfg.legal, Bool.and_eq_true, decide_eq_true_eq] at hc
  exact ⟨hc.1.1.2, hc.1.2⟩

theorem countReg_toNat {α : Type} {l : List α} (h : l.length ≤ 31) : (countReg l).toNat = l.length := by
  rw [countReg, BitVec.toNat_ofNat]
  omega

theorem ccSectionOf_of_standsAt {l : List Triplet} (hc : c.legal = true) (hs : StandsAt buf cur (ccEncOf c l))
    (hmost : l.length ≤ c.ccCountMax) : ccSectionOf c m w buf cur = .ok (l, w) := by
  obtain ⟨-, -, hcct, -⟩ := legal_sizes hc
  have h31 : l.length ≤ 31 := hmost.trans (legal_counts hc).1
  have hwithin := hs.within
  rw [ccEncOf_length] at hwithin
  obtain ⟨hhead, hentries⟩ := standsAt_append.1 hs
  rw [encodeCountHead_length] at hentries
  rw [ccSectionOf_ok, hhead.span_eq (encodeCountHead_length _), parseCountHead_encodeCountHead]
  have hcount : (ccHeadElOf c (countReg l)).count.toNat = l.length := countReg_toNat h31
  rw [hcount]
  exact ⟨w, runChecks_of_all _ _ (countHeadChecks_hold (countReg_toNat h31) hmost (by rw [hcct]; omega)),
    tripletsOf_of_standsAt hc hentries⟩

theorem svcDecOf_of_standsAt {l : List SvcEntry} (hc : c.legal = true) (hs : StandsAt buf cur (svcEncOf c l))
    (hwf : l.all (wfSvcEntry c) = true) (hmost : l.length ≤ c.svcCountMax) :
    svcDecOf c m w buf cur = .ok (l, w) := by
  obtain ⟨-, -, -, -, hone⟩ := legal_sizes hc
  have h31 : l.length ≤ 31 := hmost.trans (legal_counts hc).2
  have hwithin := hs.within
  rw [svcEncOf_length hwf] at hwithin
  obtain ⟨hhead, hentries⟩ := standsAt_append.1 hs
  rw [encodeCountHead_length] at hentries
  have hcount : (svcHeadElOf c (countReg l)).count.toNat = l.length := countReg_toNat h31
  rw [svcDecOf, hhead.span_eq (encodeCountHead_length _), parseCountHead_encodeCountHead]
  refine yield_ok.2 ⟨runChecks_of_all _ _ (countHeadChecks_hold (countReg_toNat h31) hmost (by omega)), ?_⟩
  rw [hcount, entriesOf_of_standsAt hwf hone hentries]

theorem ftrDecOf_of_standsAt {hseq : Half} {ck : Byte} (hc : c.legal = true)
    (hs : StandsAt buf cur (encodeFooter (footerElOf c hseq ck))) :
    ftrDecOf c m w buf cur = .ok (footerElOf c hseq ck, w) := by
  obtain ⟨-, -, -, hftr, -⟩ := legal_sizes hc
  have hwithin := hs.within
  rw [encodeFooter_length] at hwithin
  rw [ftrDecOf, hs.span_eq (by rw [encodeFooter_length, hftr]), parseFooter_encodeFooter]
  refine yield_ok.2 ⟨runChecks_of_all _ _ ?_, rfl⟩
  simp only [ftrChecks, expectChecks, footerElOf, List.cons_append, List.nil_append, List.all_cons, checkHolds,
    beq_self_eq_true, List.all_nil, Bool.and_true, Bool.and_eq_true, decide_eq_true_eq, true_and]
  omega

/-! What strict mode decodes, an encoder writes. -/

/-- The checks of a strict decode that passes all hold. -/
theorem checks_of_yield_strict {α : Type} {cs : List Check} {a b : α} (h : yield .strict w cs a = .ok (b, w')) :
    cs.all checkHolds = true ∧ b = a := by
  obtain ⟨hpass, hb⟩ := yield_ok.1 h
  exact ⟨(runChecks_strict_ok hpass).2, hb⟩

/-- An element parsed from its span, whole, stands there as its bytes. -/
theorem standsAt_of_take {bs : List Byte} {k : Nat} (hlen : cur + k ≤ buf.length)
    (h : bs = (spanOf buf cur k).take k) : StandsAt buf cur bs := by
  rw [List.take_of_length_le (spanOf_length hlen).le] at h
  exact h ▸ standsAt_spanOf hlen

theorem standsAt_of_hdrDecOf {h : HeaderRegs} (hc : c.legal = true) (hok : hdrDecOf c .strict w buf = .ok (h, w')) :
    StandsAt buf 0 (encodeHeader (headerElOf c h.len h)) := by
  obtain ⟨hhdr, -⟩ := legal_sizes hc
  obtain ⟨hall, rfl⟩ := checks_of_yield_strict hok
  rw [hhdr] at hall ⊢
  generalize he : parseHeader (spanOf buf 0 7) = e at hall ⊢
  simp only [hdrChecks, List.all_cons, List.all_nil, checkHolds, Bool.and_true, Bool.and_eq_true, decide_eq_true_eq,
    beq_iff_eq, hhdr] at hall
  obtain ⟨hlen, hmagic, -, -, hrsv, hflags⟩ := hall
  replace hlen : 0 + 7 ≤ buf.length := by omega
  have hel : headerElOf c e.len (hdrRegsOf c e) = e := by
    rw [headerElOf, ← hmagic, ← hrsv, ← hflags]
    rfl
  refine standsAt_of_take hlen ?_
  rw [← encodeHeader_parseHeader (spanOf_length hlen).ge, he]
  exact congrArg encodeHeader hel

theorem standsAt_of_tcDecOf {t : TimeCode} (hc : c.legal = true) (hok : tcDecOf c .strict w buf cur = .ok (t, w')) :
    StandsAt buf cur (tcEncOf c t) := by
  obtain ⟨-, htcs, -⟩ := legal_sizes hc
  obtain ⟨hall, rfl⟩ := checks_of_yield_strict hok
  rw [htcs] at hall ⊢
  generalize he : parseTimeCode (spanOf buf cur 5) = e at hall ⊢
  simp only [tcChecks, expectChecks, List.cons_append, List.nil_append, List.all_cons, List.all_nil, checkHolds,
    Bool.and_true, Bool.and_eq_true, decide_eq_true_eq, beq_iff_eq, htcs] at hall
  obtain ⟨-, hid, hlen, hmkH, hmkM, hmkF⟩ := hall
  have hel : timeCodeElOf c e.tc = e := by rw [timeCodeElOf, ← hid, ← hmkH, ← hmkM, ← hmkF]
  refine standsAt_of_take hlen ?_
  rw [← encodeTimeCode_parseTimeCode (spanOf_length hlen).ge, he]
  exact congrArg encodeTimeCode hel

theorem standsAt_of_cctDecOf {t : Triplet} (hc : c.legal = true) (hlen : cur + 3 ≤ buf.length)
    (hok : cctDecOf c .strict w buf cur = .ok (t, w')) : StandsAt buf cur (cctEncOf c t) := by
  obtain ⟨-, -, hcct, -⟩ := legal_sizes hc
  obtain ⟨hall, rfl⟩ := checks_of_yield_strict hok
  rw [hcct] at hall ⊢
  generalize he : parseTriplet (spanOf buf cur 3) = e at hall ⊢
  simp only [tripletChecks, List.all_cons, List.all_nil, checkHolds, Bool.and_true, beq_iff_eq] at hall
  have hel : tripletElOf c e.t = e := by rw [tripletElOf, ← hall]
  refine standsAt_of_take hlen ?_
  rw [← encodeTriplet_parseTriplet (spanOf_length hlen).ge, he]
  exact congrArg encodeTriplet hel

theorem standsAt_of_tripletsOf (hc : c.legal = true) : ∀ {k cur : Nat} {w w' : List Nat} {l : List Triplet},
    cur + 3 * k ≤ buf.length → tripletsOf c .strict buf k cur w = .ok (l, w') →
      StandsAt buf cur (l.flatMap (cctEncOf c))
  | 0, cur, _, _, _, hlen, hok => by
    cases hok
    exact standsAt_nil hlen
  | k + 1, cur, w, w', l, hlen, hok => by
    obtain ⟨-, -, hcct, -⟩ := legal_sizes hc
    obtain ⟨t, w1, ts, ht, hts, rfl⟩ := tripletsOf_succ_ok.1 hok
    have hsize : (cctEncOf c t).length = 3 := encodeTriplet_length _
    refine standsAt_append.2 ⟨standsAt_of_cctDecOf hc (by omega) ht, ?_⟩
    rw [hcct] at hts
    exact hsize ▸ standsAt_of_tripletsOf hc (by omega) hts

theorem standsAt_entriesOf (hone : 1 ≤ c.svcEntryBytes) : ∀ {k cur : Nat},
    cur + c.svcEntryBytes * k ≤ buf.length → StandsAt buf cur ((entriesOf c buf k cur).flatMap (sveEncOf c))
  | 0, cur, hlen => standsAt_nil hlen
  | k + 1, cur, hlen => by
    rw [Nat.mul_succ] at hlen
    have hentry : cur + c.svcEntryBytes ≤ buf.length := by omega
    have hsize : (sveEncOf c (sveDecOf c buf cur)).length = c.svcEntryBytes :=
      encodeSvcEntry_length (wfSvcEntry_parseSvcEntry hone _)
    refine standsAt_append.2 ⟨standsAt_of_take hentry ?_, hsize ▸ standsAt_entriesOf hone (by omega)⟩
    exact encodeSvcEntry_parseSvcEntry hone (spanOf_length hentry).ge

/-- A counted section's head that strict mode passes stands there as an encoder writes it, with room for its entries. -/
theorem standsAt_of_countHead {id : Byte} {mk : BitVec 3} {most size : Nat}
    (hpass : runChecks .strict w (countHeadChecks id mk most size buf.length cur (parseCountHead (spanOf buf cur 2))) =
      .ok w') :
    StandsAt buf cur (encodeCountHead ⟨id, mk, (parseCountHead (spanOf buf cur 2)).count⟩) ∧
      cur + 2 + size * (parseCountHead (spanOf buf cur 2)).count.toNat ≤ buf.length := by
  have hall := (runChecks_strict_ok hpass).2
  generalize he : parseCountHead (spanOf buf cur 2) = e at hall ⊢
  simp only [countHeadChecks, expectChecks, List.cons_append, List.nil_append, List.all_cons, List.all_nil, checkHolds,
    Bool.and_true, Bool.and_eq_true, decide_eq_true_eq, beq_iff_eq] at hall
  obtain ⟨-, hid, hlen, hmk, -, hroom⟩ := hall
  refine ⟨standsAt_of_take hlen ?_, hroom⟩
  rw [← encodeCountHead_parseCountHead (spanOf_length hlen).ge, he, ← hid, ← hmk]

/-- The count an encoder writes is the one the entries were read by. -/
theorem countReg_eq {α : Type} {l : List α} {x : BitVec 5} (h : l.length = x.toNat) : countReg l = x := by
  rw [countReg, h, BitVec.ofNat_toNat, BitVec.setWidth_eq]

theorem standsAt_of_ccSectionOf {l : List Triplet} (hc : c.legal = true)
    (hok : ccSectionOf c .strict w buf cur = .ok (l, w')) : StandsAt buf cur (ccEncOf c l) := by
  obtain ⟨-, -, hcct, -⟩ := legal_sizes hc
  obtain ⟨w1, hpass, hl⟩ := ccSectionOf_ok.1 hok
  obtain ⟨hhead, hroom⟩ := standsAt_of_countHead hpass
  rw [hcct] at hroom
  rw [ccEncOf, countReg_eq (tripletsOf_length hl)]
  refine standsAt_append.2 ⟨hhead, ?_⟩
  rw [encodeCountHead_length]
  exact standsAt_of_tripletsOf hc hroom hl

theorem standsAt_of_svcDecOf {l : List SvcEntry} (hc : c.legal = true)
    (hok : svcDecOf c .strict w buf cur = .ok (l, w')) : StandsAt buf cur (svcEncOf c l) := by
  obtain ⟨-, -, -, -, hone⟩ := legal_sizes hc
  obtain ⟨hpass, rfl⟩ := yield_ok.1 hok
  obtain ⟨hhead, hroom⟩ := standsAt_of_countHead hpass
  rw [svcEncOf, countReg_eq entriesOf_length]
  refine standsAt_append.2 ⟨hhead, ?_⟩
  rw [encodeCountHead_length]
  exact standsAt_entriesOf hone hroom

theorem standsAt_of_ftrDecOf {e : FooterEl} (hc : c.legal = true) (hok : ftrDecOf c .strict w buf cur = .ok (e, w')) :
    StandsAt buf cur (encodeFooter e) ∧ e = footerElOf c e.fseq e.cksum := by
  obtain ⟨-, -, -, hftr, -⟩ := legal_sizes hc
  obtain ⟨hall, rfl⟩ := checks_of_yield_strict hok
  rw [hftr] at hall ⊢
  generalize he : parseFooter (spanOf buf cur 4) = e at hall ⊢
  simp only [ftrChecks, expectChecks, List.cons_append, List.nil_append, List.all_cons, List.all_nil, checkHolds,
    Bool.and_true, Bool.and_eq_true, decide_eq_true_eq, beq_iff_eq, hftr] at hall
  obtain ⟨-, hid, hlen⟩ := hall
  refine ⟨standsAt_of_take hlen ?_, by rw [footerElOf, ← hid]⟩
  rw [← encodeFooter_parseFooter (spanOf_length hlen).ge, he]

end Sections

end Sys2Proof.Machine
end

section
/-! The round trips: what ENCODE emits DECODE takes back, and what strict DECODE accepts ENCODE makes
(spec/44_packet_encode.md R179, spec/30_encoding.md R86). -/

namespace Sys2Proof.Machine

open Sys2Proof.Safety (entriesWhole)
open Sys2Proof.Laws.EncodedLength (legal_sizes)

section Sections

variable {c : Cfg} {buf : List Byte} {cur : Nat}

/-- A member whose flag is its tag is decoded where it is there. -/
theorem optional_of_tag {α : Type} {p : Bit} {w : List Nat} {x : Except Abort (α × List Nat)} {o : Option α}
    (hp : p = tagOf o) (hx : ∀ a, o = some a → x = .ok (a, w)) : optional p w x = .ok (o, w) := by
  refine optional_ok.2 ?_
  cases o with
  | none => exact .inr ⟨fun hone => absurd (hp.symm.trans hone) (by decide : (0 : Bit) ≠ 1), rfl, rfl⟩
  | some a => exact .inl ⟨hp, a, rfl, hx a rfl⟩

theorem flagsConsistent_iff {p : Pkt} :
    flagsConsistent p = true ↔
      p.hdr.flags.tc = tagOf p.tc ∧ p.hdr.flags.cc = tagOf p.cc ∧ p.hdr.flags.svc = tagOf p.svc := by
  simp [flagsConsistent, and_assoc]

theorem StandsAt.congr {a b : List Byte} (h : StandsAt buf cur a) (hab : a = b) : StandsAt buf cur b :=
  hab ▸ h

/-- A member that is there stands in its place. -/
theorem standsAt_of_some {α : Type} {f : α → List Byte} {o : Option α} {a : α} (h : StandsAt buf cur (optBytes o f))
    (ho : o = some a) : StandsAt buf cur (f a) := by
  subst ho
  exact h

/-- What strict mode decodes, or finds not to be there, stands in its place as an encoder writes it. -/
theorem standsAt_of_optional {α : Type} {f : α → List Byte} {p : Bit} {w w' : List Nat}
    {x : Except Abort (α × List Nat)} {o : Option α} (h : optional p w x = .ok (o, w')) (hcur : cur ≤ buf.length)
    (hx : ∀ a, x = .ok (a, w') → StandsAt buf cur (f a)) : StandsAt buf cur (optBytes o f) := by
  rcases optional_ok.1 h with ⟨-, a, rfl, ha⟩ | ⟨-, rfl, -⟩
  · exact hx a ha
  · exact standsAt_nil hcur

end Sections

/-- Settles O26: the layout's sections stand in the buffer one after another, so each is decoded from its place. -/
theorem encodeThenDecodeRoundTrip : Obligations.EncodeThenDecodeRoundTrip := by
  intro c m p bytes rest hc hw henc
  obtain ⟨hhdr, -⟩ := legal_sizes hc
  obtain ⟨hall, -⟩ := encodePacket_ok.1 henc
  obtain ⟨hflags, hfr, hcccount, hsvccount, -⟩ := encodeChecks_hold.1 hall
  obtain ⟨htag, hcctag, hsvctag⟩ := flagsConsistent_iff.1 hflags
  obtain ⟨ck, hlayout, hlen, hmost, hsum⟩ := encodePacket_layout hc hw henc
  obtain ⟨-, -, hck⟩ := byteAt_footer hlayout
  replace hck : byteAt bytes (bytes.length - 1) = ck := hck
  have hwhole : StandsAt (bytes ++ rest) 0 bytes := standsAt_front bytes rest
  have hspan : spanOf (bytes ++ rest) 0 bytes.length = bytes := hwhole.span
  have hwithin : bytes.length ≤ (bytes ++ rest).length := by simp
  have hlenByte : (BitVec.ofNat 8 bytes.length).toNat = bytes.length := by
    rw [BitVec.toNat_ofNat]
    omega
  obtain ⟨hparts, hfooter⟩ := standsAt_append.1 (hwhole.congr hlayout)
  obtain ⟨hheader, hsections⟩ := standsAt_append.1 hparts
  obtain ⟨hsections, hsvc⟩ := standsAt_append.1 hsections
  obtain ⟨htc, hcc⟩ := standsAt_append.1 hsections
  simp only [encodeHeader_length, List.length_append, sectionBytes_length hc hw, optBytes_tc_length hc,
    optBytes_cc_length hc, Nat.zero_add, ← Nat.add_assoc, ← hhdr] at htc hcc hsvc hfooter
  have hconsumed : c.hdrBytes + tcSize c p.tc + ccSize c p.cc + svcSize c p.svc + c.ftrBytes = bytes.length := hlen.symm
  refine decodePacket_ok.2 ⟨{ p.hdr with id := c.magic, len := BitVec.ofNat 8 bytes.length }, [], p.tc, [], p.cc, [],
    p.svc, [], ?header, ?timeCode, ?ccData, ?serviceInfo, ?footer⟩
  case header => exact hdrDecOf_of_standsAt hc hheader hfr (by omega)
  case timeCode => exact optional_of_tag htag fun t ht => atCur_ok.2 (tcDecOf_of_standsAt hc (standsAt_of_some htc ht))
  case ccData =>
    exact optional_of_tag hcctag fun l hl =>
      ccSectionOf_of_standsAt hc (standsAt_of_some hcc hl) (countFits_iff.1 hcccount l hl)
  case serviceInfo =>
    exact optional_of_tag hsvctag fun l hl => atCur_ok.2 (svcDecOf_of_standsAt hc (standsAt_of_some hsvc hl)
      (entriesWhole_iff.1 hw l hl) (countFits_iff.1 hsvccount l hl))
  case footer =>
    refine footerOf_ok.2 ⟨_, [], [], ftrDecOf_of_standsAt hc hfooter, ?_, ?_⟩
    · rw [hconsumed, hspan]
      refine runChecks_of_all _ _ ?_
      simp [packetChecks, checkHolds, footerElOf, hsum, hlenByte]
    · rw [hconsumed, hck]
      rfl

/-- A packet that strict mode decodes is its record as an encoder lays it out: each section stands where an encoder
writes it. -/
theorem take_of_decodePacket_strict {c : Cfg} {buf : List Byte} {d : Decoded} (hc : c.legal = true)
    (hok : decodePacket c .strict buf = .ok d) :
    buf.take d.consumed = packetHead c d.pkt d.pkt.hdr.len ++ [d.pkt.cksum] := by
  obtain ⟨hhdr, -⟩ := legal_sizes hc
  obtain ⟨-, -, hbuf, -, hcons, -, -, -, hseq, -, -, -, -, hw, -⟩ := doneDecodeIsWellFormed c .strict buf d hc hok
  obtain ⟨h, w0, tc, w1, cc, w2, svc, w3, hh, htc, hcc, hsvc, hf⟩ := decodePacket_ok.1 hok
  obtain ⟨e, w4, w5, hfe, -, rfl⟩ := footerOf_ok.1 hf
  obtain ⟨hfooter, he⟩ := standsAt_of_ftrDecOf hc hfe
  replace hseq : e.fseq = h.hseq := hseq
  rw [he, hseq] at hfooter
  have hsvcs := optBytes_svc_length hw
  dsimp only at hbuf hcons hw hsvcs ⊢
  have hstands : StandsAt buf 0 (encodeHeader (headerElOf c h.len h) ++
      sectionBytes c ⟨h, tc, cc, svc, e.fseq, e.cksum⟩ ++ encodeFooter (footerElOf c h.hseq e.cksum)) := by
    simp only [sectionBytes, standsAt_append, encodeHeader_length, List.length_append, optBytes_tc_length hc,
      optBytes_cc_length hc, hsvcs, Nat.zero_add, ← Nat.add_assoc, ← hhdr]
    refine ⟨⟨standsAt_of_hdrDecOf hc hh, ⟨?_, ?_⟩, ?_⟩, hfooter⟩
    · exact standsAt_of_optional htc (by omega) fun t ht => standsAt_of_tcDecOf hc (atCur_ok.1 ht)
    · exact standsAt_of_optional hcc (by omega) fun l hl => standsAt_of_ccSectionOf hc hl
    · exact standsAt_of_optional hsvc (by omega) fun l hl => standsAt_of_svcDecOf hc (atCur_ok.1 hl)
  have hpacket := hstands.congr (packetHead_snoc c ⟨h, tc, cc, svc, e.fseq, e.cksum⟩ h.len e.cksum).symm
  have hlength : (packetHead c ⟨h, tc, cc, svc, e.fseq, e.cksum⟩ h.len ++ [e.cksum]).length =
      c.hdrBytes + tcSize c tc + ccSize c cc + svcSize c svc + c.ftrBytes := by
    rw [List.length_append, List.length_singleton, packetHead_length hc hw, hcons]
  exact hpacket.span_eq hlength

/-- Settles O27: the length byte is the structural length, and the checksum byte is the only one that brings the sum to
0. -/
theorem strictDecodeThenEncodeReproduces : Obligations.StrictDecodeThenEncodeReproduces := by
  intro c buf d hc hok
  obtain ⟨-, hmost, -, hlen, hcons, htag, hcctag, hsvctag, -, -, hfr, hcccount, hsvccount, hw, hsum⟩ :=
    doneDecodeIsWellFormed c .strict buf d hc hok
  have hlenByte : d.pkt.hdr.len = BitVec.ofNat 8 (pktLength c d.pkt) := by
    rw [← hcons, hlen, BitVec.ofNat_toNat, BitVec.setWidth_eq]
  have htake := take_of_decodePacket_strict hc hok
  rw [htake, sum8_snoc_eq_zero] at hsum
  rw [hcons] at hmost
  refine encodePacket_ok.2 ⟨encodeChecks_hold.2 ⟨flagsConsistent_iff.2 ⟨htag, hcctag, hsvctag⟩, hfr, hcccount,
    hsvccount, hmost.trans_eq (legal_lenMax hc).symm⟩, ?_⟩
  rw [htake, hsum, hlenByte, sealPacket_composeBody hc hw]

/-- The host's copy of `OUT` after an ENCODE, as the operand of the next command. -/
theorem operandBytes_copy {m : Memory} (hm : memWf m = true) (t : State) (mode : Mode) :
    operandBytes { t with mode := mode, inMem := memWriteBytes m 0 (outBytes t), inLen := t.outLen } = outBytes t := by
  have hlen : (outBytes t).length = t.outLen := memSpan_length _ _ _
  simp only [operandBytes]
  rw [← hlen, memSpan_memWriteBytes hm]

/-- Settles O28: the bytes ENCODE leaves are those DECODE reads, so both ends are those of the round trip. -/
theorem machineRoundTrip : Obligations.MachineRoundTrip := by
  intro s bytes m hready hin hout henc
  have hwhole : entriesWhole cfg (bankPkt cfg s.f) = true := entriesWhole_bankPkt rfl s.f
  obtain ⟨-, -, hlen, hmost, hsum⟩ := encodePacket_layout rfl hwhole henc
  let t : State := finishEncode (startEncode s) bytes
  have ht : exec .encode s = .next t := by
    rw [exec_encode_ready hready, henc]
    rfl
  have hbytes : outBytes t = bytes := memSpan_memWriteBytes hout
  let s' : State := { t with mode := m, inMem := memWriteBytes t.inMem 0 (outBytes t), inLen := t.outLen }
  have hoperand : operandBytes s' = bytes := (operandBytes_copy hin t m).trans hbytes
  have hdecode := encodeThenDecodeRoundTrip cfg m (bankPkt cfg s.f) bytes [] rfl hwhole henc
  rw [List.append_nil] at hdecode
  obtain ⟨u, hu, hpkt, hstate⟩ := decodeEndsInDone s' _ rfl ((congrArg (decodePacket cfg m) hoperand).trans hdecode)
  have hvalid : ckValidateOf (operandBytes u) = 1 := by
    have hsame : operandBytes u = operandBytes s' := by rw [hstate]; rfl
    rw [hsame, hoperand, ckValidateOf_eq_one]
    exact hsum
  have hlenByte : (BitVec.ofNat 8 bytes.length).toNat = bytes.length := by
    rw [BitVec.toNat_ofNat]
    omega
  have hhdr : u.f.hdr = _ := congrArg Pkt.hdr hpkt
  have hst : u.st = .done := by rw [hstate]
  refine ⟨t, u, finishChecksum u (ckValidateOf (operandBytes u)), ht, hu,
    exec_ckValidate_ready (by simp [busy, hst]), hst, by rw [hstate], by rw [hstate], by rw [hpkt], by rw [hpkt],
    by rw [hpkt], by rw [hhdr]; rfl, by rw [hhdr]; rfl, by rw [hhdr]; rfl, congrArg Pkt.fseq hpkt, by rw [hhdr],
    by rw [hhdr]; exact hlenByte, hvalid⟩

end Sys2Proof.Machine
end

section
/-! The checks of each section under the default configuration (spec/41_section_codec.md), and what the wire elements do
where they are due (spec/43_packet_decode.md R154 to R160). -/

namespace Sys2Proof.Machine

open Sys2Proof.Safety (FailsWith warnIf inNat)

section Checks

variable (m : Mode) (w : List Nat) (n cur : Nat)

theorem runChecks_tcChecks_cfg (e : TimeCodeEl) :
    runChecks m w (tcChecks cfg n cur e) =
      if n < cur + 1 then .error ⟨.truncatedBuffer, n⟩
      else if e.id ≠ 0x71 then .error ⟨.unexpectedSectionId, cur⟩
      else if n < cur + 5 then .error ⟨.truncatedBuffer, n⟩
      else if m = .strict ∧ e.mkH ≠ 3 then .error ⟨.reservedBitMismatch, cur + 1⟩
      else if m = .strict ∧ e.mkM ≠ 1 then .error ⟨.reservedBitMismatch, cur + 2⟩
      else if m = .strict ∧ e.mkF ≠ 0 then .error ⟨.reservedBitMismatch, cur + 4⟩
      else .ok (w ++ warnIf (e.mkH != 3) (cur + 1) ++ warnIf (e.mkM != 1) (cur + 2) ++ warnIf (e.mkF != 0) (cur + 4)) := by
  have hid : cfg.idTimecode = 0x71 := rfl
  have hsize : cfg.tcBytes = 5 := rfl
  have hmkH : cfg.tcMkH = 3 := rfl
  have hmkM : cfg.tcMkM = 1 := rfl
  have hmkF : cfg.tcMkF = 0 := rfl
  simp only [tcChecks, expectChecks, List.cons_append, List.nil_append, runChecks_must, runChecks_rsv, runChecks_nil,
    hid, hsize, hmkH, hmkM, hmkF, decide_eq_true_eq, beq_iff_eq, beq_eq_false_iff_ne, ite_not, ← Nat.not_lt, ne_eq, bne]

/-- A counted section's head, whose 5-bit count is within the default maximum. -/
theorem runChecks_countHeadChecks_cfg (id : Byte) (size : Nat) (e : CountHeadEl) :
    runChecks m w (countHeadChecks id 7 31 size n cur e) =
      if n < cur + 1 then .error ⟨.truncatedBuffer, n⟩
      else if e.id ≠ id then .error ⟨.unexpectedSectionId, cur⟩
      else if n < cur + 2 then .error ⟨.truncatedBuffer, n⟩
      else if m = .strict ∧ e.marker ≠ 7 then .error ⟨.reservedBitMismatch, cur + 1⟩
      else if n < cur + 2 + size * e.count.toNat then .error ⟨.truncatedBuffer, n⟩
      else .ok (w ++ warnIf (e.marker != 7) (cur + 1)) := by
  have hcount : ¬ 31 < e.count.toNat := Nat.not_lt.2 (Nat.le_of_lt_succ e.count.isLt)
  simp only [countHeadChecks, expectChecks, List.cons_append, List.nil_append, hcount, runChecks_must, runChecks_rsv,
    runChecks_nil, decide_eq_true_eq, beq_iff_eq, beq_eq_false_iff_ne, ite_not, ← Nat.not_lt, ne_eq, bne, if_false]

theorem runChecks_tripletChecks_cfg (e : TripletEl) :
    runChecks m w (tripletChecks cfg cur e) =
      if m = .strict ∧ e.marker ≠ 31 then .error ⟨.reservedBitMismatch, cur⟩
      else .ok (w ++ warnIf (e.marker != 31) cur) := by
  have hmk : cfg.ccMk = 31 := rfl
  simp only [tripletChecks, runChecks_rsv, runChecks_nil, hmk, beq_eq_false_iff_ne, ne_eq, bne]

theorem runChecks_ftrChecks_cfg (e : FooterEl) :
    runChecks m w (ftrChecks cfg n cur e) =
      if n < cur + 1 then .error ⟨.truncatedBuffer, n⟩
      else if e.id ≠ 0x74 then .error ⟨.unexpectedSectionId, cur⟩
      else if n < cur + 4 then .error ⟨.truncatedBuffer, n⟩
      else .ok w := by
  have hid : cfg.idFooter = 0x74 := rfl
  have hsize : cfg.ftrBytes = 4 := rfl
  simp only [ftrChecks, expectChecks, List.cons_append, List.nil_append, runChecks_must, runChecks_nil, hid, hsize,
    decide_eq_true_eq, beq_iff_eq, ite_not, ← Nat.not_lt, ne_eq]

end Checks

/-! The elements where they are due. -/

section Due

variable {s : State}

theorem exec_timecode_due (h : s.st = .timeCode) (e : TimeCodeEl) :
    exec (.timecode e) s = frameStep cfg s (tcChecks cfg s.n s.cur e) fun s => takeTimeCode cfg s e.tc :=
  whenDue_due (by simp [slotOf, h])

theorem exec_ccdataHead_due (h : s.st = .ccData) (hnone : s.pend.cc = none) (e : CountHeadEl) :
    exec (.ccdataHead e) s =
      frameStep cfg s (countHeadChecks 0x72 7 31 3 s.n s.cur e) fun s => takeTriplets s (s.cur + 2) e.count [] :=
  whenDue_due (by simp [slotOf, h, hnone])

theorem exec_ccTriplet_due {cnt : BitVec 5} {l : List Triplet} (h : s.st = .ccData) (hsome : s.pend.cc = some (cnt, l))
    (e : TripletEl) :
    exec (.ccTriplet e) s =
      frameStep cfg s (tripletChecks cfg s.cur e) fun t =>
        takeTriplets { s with warn := t.warn } (s.cur + 3) cnt (l ++ [e.t]) := by
  refine (whenDue_due (by simp [slotOf, h, hsome])).trans ?_
  unfold frameStep
  cases runChecks s.modeSample s.warn (tripletChecks cfg s.cur e)
  · rfl
  · simp only [hsome]
    rfl

theorem exec_svcinfoHead_due (h : s.st = .serviceInfo) (hnone : s.pend.svc = none) (e : CountHeadEl) :
    exec (.svcinfoHead e) s =
      frameStep cfg s (countHeadChecks 0x73 7 31 7 s.n s.cur e) fun s => takeEntries s (s.cur + 2) e.count [] :=
  whenDue_due (by simp [slotOf, h, hnone])

theorem exec_svcEntry_due {cnt : BitVec 5} {l : List SvcEntry} (h : s.st = .serviceInfo)
    (hsome : s.pend.svc = some (cnt, l)) (e : SvcEntry) :
    exec (.svcEntry e) s = .next (takeEntries s (s.cur + 7) cnt (l ++ [e])) := by
  refine (whenDue_due (by simp [slotOf, h, hsome])).trans ?_
  simp only [frameStep, runChecks_nil, hsome]
  rfl

theorem exec_footer_due (h : s.st = .footer) (e : FooterEl) :
    exec (.footer e) s =
      frameStep cfg s (ftrChecks cfg s.n s.cur e ++
          packetChecks s.cur (s.cur + 4) (sum8 (spanOf (inBytes s) 0 (s.cur + 4))) s.pend.hdr e)
        fun t => finishDecode cfg t (pendPkt t.pend e) (s.cur + 4) (sum8 (spanOf (inBytes s) 0 (s.cur + 4))) t.warn :=
  whenDue_due (by simp [slotOf, h])

end Due

theorem nextFrame_timeCode (fl : Flags) :
    nextFrame fl .timeCode = if fl.cc = 1 then .ccData else if fl.svc = 1 then .serviceInfo else .footer := rfl

theorem nextFrame_ccData (fl : Flags) : nextFrame fl .ccData = if fl.svc = 1 then .serviceInfo else .footer := rfl

/-- Settles O51: each failing check is a raise of the named kind at the named offset. -/
theorem timecodeElementOutcome : Obligations.TimecodeElementOutcome := by
  intro s e hst
  simp only [exec_timecode_due hst, frameStep, runChecks_tcChecks_cfg, ← nextFrame_timeCode]
  split_ifs
  case neg => rfl
  all_goals exact failsWith_raiseDecode ..

/-- A head that announces no entries ends its section. -/
theorem toNat_pos_of_ne_zero {cnt : BitVec 5} (h : cnt ≠ 0) : 0 < cnt.toNat :=
  Nat.pos_of_ne_zero fun hzero => h (BitVec.eq_of_toNat_eq hzero)

/-- Settles O52: a head that announces entries, and a triplet that is not the last, keep the state. -/
theorem ccElementsOutcome : Obligations.CcElementsOutcome := by
  constructor
  · intro s e hst hnone
    simp only [exec_ccdataHead_due hst hnone, frameStep, runChecks_countHeadChecks_cfg, ← nextFrame_ccData]
    split_ifs with _ _ _ _ _ hzero
    iterate 5 exact failsWith_raiseDecode ..
    · rw [hzero]
      exact congrArg Host.Outcome.next (takeTriplets_last le_rfl)
    · exact congrArg Host.Outcome.next (takeTriplets_more (toNat_pos_of_ne_zero hzero))
  · intro s e cnt l hst hsome hlen
    simp only [exec_ccTriplet_due hst hsome, frameStep, runChecks_tripletChecks_cfg, ← nextFrame_ccData]
    split_ifs with hbad hlast
    · exact failsWith_raiseDecode ..
    · exact congrArg Host.Outcome.next (takeTriplets_last (by simp [hlast]))
    · exact congrArg Host.Outcome.next (takeTriplets_more (by simp; omega))

/-- Settles O53: a head that announces entries, and an entry that is not the last, keep the state. -/
theorem svcElementsOutcome : Obligations.SvcElementsOutcome := by
  constructor
  · intro s e hst hnone
    simp only [exec_svcinfoHead_due hst hnone, frameStep, runChecks_countHeadChecks_cfg]
    split_ifs with _ _ _ _ _ hzero
    iterate 5 exact failsWith_raiseDecode ..
    · rw [hzero]
      exact congrArg Host.Outcome.next (takeEntries_last le_rfl)
    · exact congrArg Host.Outcome.next (takeEntries_more (toNat_pos_of_ne_zero hzero))
  · intro s e cnt l hst hsome hlen
    rw [exec_svcEntry_due hst hsome]
    split_ifs with hlast
    · exact congrArg Host.Outcome.next (takeEntries_last (by simp [hlast]))
    · exact congrArg Host.Outcome.next (takeEntries_more (by simp; omega))

/-- The sum of the first bytes of `IN`, as the numbers they are. -/
theorem sum8_spanOf_inBytes {s : State} {k : Nat} (hk : k ≤ s.n) :
    sum8 (spanOf (inBytes s) 0 k) = 0 ↔ ((List.range k).map (inNat s)).sum % 256 = 0 := by
  have hspan : (spanOf (inBytes s) 0 k).map BitVec.toNat = (List.range k).map (inNat s) := by
    simp only [spanOf, inBytes, memSpan, List.drop_zero, ← List.map_take, List.take_range, Nat.min_eq_left hk,
      List.map_map, Nat.zero_add]
    rfl
  rw [← BitVec.toNat_inj, sum8_toNat, hspan]
  rfl

/-- The footer's checks and the three comparisons, one after another (spec/43_packet_decode.md R157 to R159). -/
theorem runChecks_footer_cfg (m : Mode) (w : List Nat) (n cur : Nat) (sum : Byte) (h : HeaderRegs) (e : FooterEl) :
    runChecks m w (ftrChecks cfg n cur e ++ packetChecks cur (cur + 4) sum h e) =
      if n < cur + 1 then .error ⟨.truncatedBuffer, n⟩
      else if e.id ≠ 0x74 then .error ⟨.unexpectedSectionId, cur⟩
      else if n < cur + 4 then .error ⟨.truncatedBuffer, n⟩
      else if e.fseq ≠ h.hseq then .error ⟨.sequenceMismatch, cur + 1⟩
      else if sum ≠ 0 then .error ⟨.checksumMismatch, cur + 3⟩
      else if cur + 4 ≠ h.len.toNat then .error ⟨.lengthMismatch, 2⟩
      else .ok w := by
  have hid : cfg.idFooter = 0x74 := rfl
  have hsize : cfg.ftrBytes = 4 := rfl
  have hlast : cur + 4 - 1 = cur + 3 := rfl
  simp only [ftrChecks, packetChecks, expectChecks, List.cons_append, List.nil_append, runChecks_must, runChecks_nil, hid,
    hsize, hlast, decide_eq_true_eq, beq_iff_eq, ite_not, ← Nat.not_lt, ne_eq]

theorem bankPkt_finishDecode_pendPkt (s : State) (e : FooterEl) (k : Nat) (x : Byte) :
    bankPkt cfg (finishDecode cfg s (pendPkt s.pend e) k x s.warn).f =
      ⟨s.pend.hdr, s.pend.tc, s.pend.cc.map Prod.snd, s.pend.svc.map fun p => wholeEntries cfg p.2, e.fseq, e.cksum⟩ := by
  rw [finishDecode_f, bankPkt_loadBank]
  simp only [pendPkt, Option.map_map, Function.comp_def]

/-- Settles O54: the counter, the sum of the consumed span and the length are compared behind the footer's own checks. -/
theorem footerElementOutcome : Obligations.FooterElementOutcome := by
  intro s e hst
  by_cases hlen : s.n < s.cur + 4
  · simp only [exec_footer_due hst, frameStep, runChecks_footer_cfg, hlen, if_true]
    split_ifs <;> exact failsWith_raiseDecode ..
  · have hsum := (sum8_spanOf_inBytes (Nat.not_lt.1 hlen)).ne
    simp only [exec_footer_due hst, frameStep, runChecks_footer_cfg, hlen, if_false, ← hsum]
    split_ifs with _ _ _ hzero
    iterate 5 exact failsWith_raiseDecode ..
    refine ⟨_, rfl, bankPkt_finishDecode_pendPkt s e _ _, ?_⟩
    rw [not_not.1 hzero]
    rfl

end Sys2Proof.Machine
end

section
/-! The section decodes on the bytes of `IN` (spec/41_section_codec.md R112 to R124). -/

namespace Sys2Proof.Machine

open Sys2Proof.Safety (FailsWith warnIf inNat)

/-! A field compared with its constant, by their numbers. -/

theorem ne_iff_of_toNat {n : Nat} {x : BitVec n} {k : Nat} (h : x.toNat = k) (y : BitVec n) : x ≠ y ↔ k ≠ y.toNat := by
  rw [← h, ne_eq, ne_eq, BitVec.toNat_inj]

theorem bne_of_toNat {n : Nat} {x : BitVec n} {k : Nat} (h : x.toNat = k) (y : BitVec n) : (x != y) = (k != y.toNat) := by
  rw [Bool.eq_iff_iff, bne_iff_ne, bne_iff_ne]
  exact ne_iff_of_toNat h y

/-! The fields of each element as numbers. -/

/-- Byte `i` of a span as a number. -/
def byteNat (b : List Byte) (i : Nat) : Nat := (byteAt b i).toNat

section Fields

theorem toNat_parseHeader (b : List Byte) :
    let e := parseHeader b
    e.magic.toNat = byteNat b 0 * 256 + byteNat b 1 ∧ e.len.toNat = byteNat b 2 ∧ e.fr.toNat = byteNat b 3 / 16 ∧
      e.rsv.toNat = byteNat b 3 % 16 ∧ e.flagsRsv.toNat = byteNat b 4 % 2 ∧
      e.hseq.toNat = byteNat b 5 * 256 + byteNat b 6 := by
  simp only [byteNat, parseHeader, halfField_toNat, byteField_byte, byteField_toNat, true_and, and_true]
  have h3 := (byteAt b 3).isLt
  omega

theorem toNat_parseFlags (b : Byte) :
    let fl := parseFlags b
    let x := b.toNat
    fl.tc.toNat = x / 128 ∧ fl.cc.toNat = x / 64 % 2 ∧ fl.svc.toNat = x / 32 % 2 ∧ fl.start.toNat = x / 16 % 2 ∧
      fl.change.toNat = x / 8 % 2 ∧ fl.complete.toNat = x / 4 % 2 ∧ fl.active.toNat = x / 2 % 2 := by
  simp only [parseFlags, byteField_toNat]
  have h := b.isLt
  omega

theorem toNat_parseTimeCode (b : List Byte) :
    let e := parseTimeCode b
    (e.id.toNat = byteNat b 0 ∧ e.mkH.toNat = byteNat b 1 / 64 ∧ e.mkM.toNat = byteNat b 2 / 128 ∧
        e.mkF.toNat = byteNat b 4 / 64 % 2) ∧
      e.tc.h.toNat = byteNat b 1 % 64 ∧ e.tc.m.toNat = byteNat b 2 % 128 ∧ e.tc.ff.toNat = byteNat b 3 / 128 ∧
      e.tc.s.toNat = byteNat b 3 % 128 ∧ e.tc.df.toNat = byteNat b 4 / 128 ∧ e.tc.f.toNat = byteNat b 4 % 64 := by
  simp only [byteNat, parseTimeCode, byteField_byte, byteField_toNat, true_and]
  have h1 := (byteAt b 1).isLt
  have h2 := (byteAt b 2).isLt
  have h3 := (byteAt b 3).isLt
  have h4 := (byteAt b 4).isLt
  omega

theorem toNat_parseCountHead (b : List Byte) :
    let e := parseCountHead b
    e.id.toNat = byteNat b 0 ∧ e.marker.toNat = byteNat b 1 / 32 ∧ e.count.toNat = byteNat b 1 % 32 := by
  simp only [byteNat, parseCountHead, byteField_byte, byteField_toNat, true_and]
  have h1 := (byteAt b 1).isLt
  omega

theorem toNat_parseTriplet (b : List Byte) :
    let e := parseTriplet b
    e.marker.toNat = byteNat b 0 / 8 ∧ e.t.valid.toNat = byteNat b 0 / 4 % 2 ∧ e.t.ccType.toNat = byteNat b 0 % 4 ∧
      e.t.d1.toNat = byteNat b 1 ∧ e.t.d2.toNat = byteNat b 2 := by
  simp only [byteNat, parseTriplet, byteField_byte, byteField_toNat, and_true]
  have h0 := (byteAt b 0).isLt
  omega

theorem toNat_parseSvcEntry (b : List Byte) :
    let e := parseSvcEntry cfg b
    e.sn.toNat = byteNat b 0 ∧ e.attr.map BitVec.toNat = (List.range 6).map fun k => byteNat b (1 + k) := by
  simp only [byteNat, parseSvcEntry, byteField_byte, List.map_map, true_and]
  rfl

theorem toNat_parseFooter (b : List Byte) :
    let e := parseFooter b
    e.id.toNat = byteNat b 0 ∧ e.fseq.toNat = byteNat b 1 * 256 + byteNat b 2 ∧ e.cksum.toNat = byteNat b 3 := by
  simp only [byteNat, parseFooter, halfField_toNat, byteField_byte, and_self]

end Fields

/-! The operations as their checks. -/

section Operations

variable {c : Cfg} {s : State}

/-- A byte of a span of `IN` as a number. -/
theorem byteNat_spanOf {a k i : Nat} (hi : i < k) (hn : a + i < s.n) :
    byteNat (spanOf (inBytes s) a k) i = inNat s (a + i) :=
  congrArg BitVec.toNat (byteAt_spanOf_inBytes hi hn)

/-- A section decode that is one list of checks. -/
theorem decStep_yield {α : Type} (cs : List Check) (a : α) (ret : α → Ret) :
    decStep c s (yield (effMode s) s.warn cs a) ret = checkStep c s cs fun w => handBack s w (ret a) := by
  unfold decStep yield checkStep
  cases runChecks (effMode s) s.warn cs <;> rfl

theorem exec_hdrDec (s : State) :
    exec .hdrDec s = checkStep cfg s (hdrChecks cfg s.n (parseHeader (spanOf (inBytes s) 0 7))) fun w =>
      handBack s w (.header (hdrRegsOf cfg (parseHeader (spanOf (inBytes s) 0 7))) 7) := by
  refine (decStep_yield _ _ _).trans ?_
  rw [inBytes_length]
  rfl

theorem exec_tcDec (s : State) :
    exec .tcDec s = checkStep cfg s (tcChecks cfg s.n s.cur (parseTimeCode (spanOf (inBytes s) s.cur 5))) fun w =>
      handBack s w (.timeCode (parseTimeCode (spanOf (inBytes s) s.cur 5)).tc 5) := by
  refine (decStep_yield _ _ _).trans ?_
  rw [inBytes_length]
  rfl

theorem exec_ftrDec (s : State) :
    exec .ftrDec s = checkStep cfg s (ftrChecks cfg s.n s.cur (parseFooter (spanOf (inBytes s) s.cur 4))) fun w =>
      handBack s w (.footer (parseFooter (spanOf (inBytes s) s.cur 4)).fseq
        (parseFooter (spanOf (inBytes s) s.cur 4)).cksum 4) := by
  refine (decStep_yield _ _ _).trans ?_
  rw [inBytes_length]
  rfl

theorem exec_svcDec (s : State) :
    let e := parseCountHead (spanOf (inBytes s) s.cur 2)
    exec .svcDec s = checkStep cfg s (countHeadChecks 0x73 7 31 7 s.n s.cur e) fun w =>
      handBack s w (.svcInfo (entriesOf cfg (inBytes s) e.count.toNat (s.cur + 2)) (2 + 7 * e.count.toNat)) := by
  refine (decStep_yield _ _ _).trans ?_
  rw [inBytes_length, entriesOf_length]
  rfl

theorem exec_cctDec {o : Nat} (h : o + 3 ≤ s.n) :
    exec (.cctDec o) s = checkStep cfg s (tripletChecks cfg o (parseTriplet (spanOf (inBytes s) o 3))) fun w =>
      handBack s w (.triplet (parseTriplet (spanOf (inBytes s) o 3)).t) :=
  (withinContract_of (decide_eq_true h)).trans (decStep_yield _ _ _)

theorem exec_sveDec {o : Nat} (h : o + 7 ≤ s.n) :
    exec (.sveDec o) s = .next (handBack s s.warn (.entry (parseSvcEntry cfg (spanOf (inBytes s) o 7)))) :=
  withinContract_of (decide_eq_true h)

end Operations

/-- Settles O41: the fields compared, and those held, are numbers of the header's bytes. -/
theorem hdrDecOutcome : Obligations.HdrDecOutcome := by
  intro s
  dsimp only
  rw [exec_hdrDec, checkStep, runChecks_hdrChecks_cfg]
  by_cases hlen : s.n < 7
  · simp only [hlen, if_true]
    exact failsWith_raiseDecode ..
  have hbyte : ∀ i < 7, byteNat (spanOf (inBytes s) 0 7) i = inNat s i := fun i hi =>
    (byteNat_spanOf hi (by omega)).trans (by rw [Nat.zero_add])
  obtain ⟨hmagic, hlength, hfr, hrsv, hflagsRsv, hhseq⟩ := toNat_parseHeader (spanOf (inBytes s) 0 7)
  have hflags := toNat_parseFlags (byteAt (spanOf (inBytes s) 0 7) 4)
  have hflagByte : (byteAt (spanOf (inBytes s) 0 7) 4).toNat = inNat s 4 := hbyte 4 (by decide)
  simp only [hbyte 0 (by decide), hbyte 1 (by decide), hbyte 2 (by decide), hbyte 3 (by decide), hbyte 4 (by decide),
    hbyte 5 (by decide), hbyte 6 (by decide)] at hmagic hlength hfr hrsv hflagsRsv hhseq
  rw [hflagByte] at hflags
  simp only [hlen, if_false, ne_iff_of_toNat hmagic, ne_iff_of_toNat hrsv, ne_iff_of_toNat hflagsRsv, bne_of_toNat hrsv,
    bne_of_toNat hflagsRsv, hlength, hfr, BitVec.reduceToNat]
  split_ifs
  iterate 5 exact failsWith_raiseDecode ..
  obtain ⟨htc, hcc, hsvc, hstart, hchange, hcomplete, hactive⟩ := hflags
  exact ⟨_, rfl, rfl, hlength, hfr, htc, hcc, hsvc, hstart, hchange, hcomplete, hactive, hhseq⟩

/-- Settles O42: the fields compared, and those handed back, are numbers of the section's bytes. -/
theorem tcDecOutcome : Obligations.TcDecOutcome := by
  intro s
  dsimp only
  rw [exec_tcDec, checkStep, runChecks_tcChecks_cfg]
  by_cases hshort : s.n < s.cur + 1
  · simp only [hshort, if_true]
    exact failsWith_raiseDecode ..
  obtain ⟨⟨hid, hmkH, hmkM, hmkF⟩, hfields⟩ := toNat_parseTimeCode (spanOf (inBytes s) s.cur 5)
  rw [byteNat_spanOf (by omega) (by omega)] at hid
  simp only [hshort, if_false, ne_iff_of_toNat hid, BitVec.reduceToNat]
  by_cases hlen : s.n < s.cur + 5
  · simp only [hlen, if_true]
    split_ifs <;> exact failsWith_raiseDecode ..
  have hbyte : ∀ i < 5, byteNat (spanOf (inBytes s) s.cur 5) i = inNat s (s.cur + i) := fun i hi =>
    byteNat_spanOf hi (by omega)
  simp only [hbyte 1 (by decide), hbyte 2 (by decide), hbyte 3 (by decide), hbyte 4 (by decide)] at hmkH hmkM hmkF hfields
  simp only [hlen, if_false, ne_iff_of_toNat hmkH, ne_iff_of_toNat hmkM, ne_iff_of_toNat hmkF, bne_of_toNat hmkH,
    bne_of_toNat hmkM, bne_of_toNat hmkF, BitVec.reduceToNat]
  split_ifs
  iterate 4 exact failsWith_raiseDecode ..
  exact ⟨_, rfl, hfields⟩

/-- The entries read are those at their offsets. -/
theorem entriesOf_eq_map {c : Cfg} {buf : List Byte} : ∀ {k o : Nat},
    entriesOf c buf k o = (List.range k).map fun j => sveDecOf c buf (o + c.svcEntryBytes * j)
  | 0, _ => rfl
  | k + 1, o => by
    rw [entriesOf, entriesOf_eq_map, List.range_succ_eq_map]
    simp only [List.map_cons, List.map_map, Function.comp_def, Nat.mul_zero, Nat.add_zero, Nat.mul_succ, Nat.add_assoc,
      Nat.add_comm c.svcEntryBytes]

theorem getElem?_entriesOf {c : Cfg} {buf : List Byte} {k o j : Nat} {e : SvcEntry}
    (h : (entriesOf c buf k o)[j]? = some e) : j < k ∧ sveDecOf c buf (o + c.svcEntryBytes * j) = e := by
  rw [entriesOf_eq_map, List.getElem?_eq_some_iff] at h
  obtain ⟨hj, he⟩ := h
  rw [List.getElem_map, List.getElem_range] at he
  exact ⟨by simpa using hj, he⟩

/-- The fields of a service entry as numbers of its bytes in `IN`. -/
theorem toNat_sveDecOf {s : State} {o : Nat} (h : o + 7 ≤ s.n) :
    (sveDecOf cfg (inBytes s) o).sn.toNat = inNat s o ∧
      (sveDecOf cfg (inBytes s) o).attr.map BitVec.toNat = (List.range 6).map fun k => inNat s (o + 1 + k) := by
  obtain ⟨hsn, hattr⟩ := toNat_parseSvcEntry (spanOf (inBytes s) o 7)
  refine ⟨hsn.trans (byteNat_spanOf (by decide) (by omega)), hattr.trans (List.map_congr_left fun k hk => ?_)⟩
  rw [List.mem_range] at hk
  rw [byteNat_spanOf (by omega) (by omega), Nat.add_assoc]

/-- Settles O44: the entries are those at the offsets behind the head. -/
theorem svcDecOutcome : Obligations.SvcDecOutcome := by
  intro s
  dsimp only
  rw [exec_svcDec, checkStep, runChecks_countHeadChecks_cfg]
  by_cases hshort : s.n < s.cur + 1
  · simp only [hshort, if_true]
    exact failsWith_raiseDecode ..
  obtain ⟨hid, hmarker, hcount⟩ := toNat_parseCountHead (spanOf (inBytes s) s.cur 2)
  rw [byteNat_spanOf (by omega) (by omega)] at hid
  simp only [hshort, if_false, ne_iff_of_toNat hid, BitVec.reduceToNat]
  by_cases hhead : s.n < s.cur + 2
  · simp only [hhead, if_true]
    split_ifs <;> exact failsWith_raiseDecode ..
  rw [byteNat_spanOf (by omega) (by omega)] at hmarker hcount
  simp only [hhead, if_false, ne_iff_of_toNat hmarker, bne_of_toNat hmarker, hcount, BitVec.reduceToNat]
  split_ifs with _ _ hroom
  iterate 3 exact failsWith_raiseDecode ..
  refine ⟨_, rfl, entriesOf_length, fun j e he => ?_⟩
  obtain ⟨hj, rfl⟩ := getElem?_entriesOf he
  have hsize : cfg.svcEntryBytes = 7 := rfl
  obtain ⟨hsn, hattr⟩ := toNat_sveDecOf (s := s) (o := s.cur + 2 + 7 * j) (by omega)
  rw [hsize]
  refine ⟨hsn.trans (by rw [Nat.add_assoc]), hattr.trans (List.map_congr_left fun k _ => congrArg (inNat s) (by omega))⟩

/-- Settles O45: the marker compared, and the fields handed back, are numbers of the entry's bytes. -/
theorem entryDecodesOutcome : Obligations.EntryDecodesOutcome := by
  constructor
  · intro s o ho
    obtain ⟨hmarker, hfields⟩ := toNat_parseTriplet (spanOf (inBytes s) o 3)
    have hbyte : ∀ i < 3, byteNat (spanOf (inBytes s) o 3) i = inNat s (o + i) := fun i hi =>
      byteNat_spanOf hi (by omega)
    simp only [hbyte 0 (by decide), hbyte 1 (by decide), hbyte 2 (by decide), Nat.add_zero] at hmarker hfields
    simp only [exec_cctDec ho, checkStep, runChecks_tripletChecks_cfg, ne_iff_of_toNat hmarker, bne_of_toNat hmarker,
      BitVec.reduceToNat]
    split_ifs
    · exact failsWith_raiseDecode ..
    · exact ⟨_, rfl, hfields⟩
  · intro s o ho
    obtain ⟨hsn, hattr⟩ := toNat_sveDecOf ho
    exact ⟨_, exec_sveDec ho, hsn, hattr⟩

/-- Settles O46: the identifier compared, and the fields handed back, are numbers of the footer's bytes. -/
theorem ftrDecOutcome : Obligations.FtrDecOutcome := by
  intro s
  dsimp only
  rw [exec_ftrDec, checkStep, runChecks_ftrChecks_cfg]
  by_cases hshort : s.n < s.cur + 1
  · simp only [hshort, if_true]
    exact failsWith_raiseDecode ..
  obtain ⟨hid, hfseq, hck⟩ := toNat_parseFooter (spanOf (inBytes s) s.cur 4)
  rw [byteNat_spanOf (by omega) (by omega)] at hid
  simp only [hshort, if_false, ne_iff_of_toNat hid, BitVec.reduceToNat]
  split_ifs with _ hlen
  iterate 2 exact failsWith_raiseDecode ..
  rw [byteNat_spanOf (by omega) (by omega), byteNat_spanOf (by omega) (by omega)] at hfseq
  rw [byteNat_spanOf (by omega) (by omega)] at hck
  exact ⟨_, _, rfl, hfseq, hck⟩

end Sys2Proof.Machine
end

section
/-! CC.DEC on the bytes of `IN` (spec/41_section_codec.md R116, R117). -/

namespace Sys2Proof.Machine

open Sys2Proof.Safety (FailsWith warnIf inNat)

section Triplets

variable {m : Mode} {buf : List Byte}

/-- Triplet `i` from offset `o` on. -/
def tripletAt (buf : List Byte) (o i : Nat) : TripletEl :=
  parseTriplet (spanOf buf (o + 3 * i) 3)

/-- Triplet `i` from offset `o` on has a wrong marker. -/
def markerBad (buf : List Byte) (o i : Nat) : Bool :=
  (tripletAt buf o i).marker != 31

theorem tripletAt_succ (buf : List Byte) (o i : Nat) : tripletAt buf (o + 3) i = tripletAt buf o (i + 1) := by
  rw [tripletAt, tripletAt, Nat.mul_succ, Nat.add_assoc, Nat.add_comm 3]

theorem markerBad_succ (buf : List Byte) (o i : Nat) : markerBad buf (o + 3) i = markerBad buf o (i + 1) := by
  rw [markerBad, markerBad, tripletAt_succ]

/-- A marker that strict mode passes, or lenient mode: a warning when it is wrong. -/
theorem runChecks_triplet_ok {w : List Nat} {o : Nat} (h : m = .lenient ∨ markerBad buf o 0 = false) :
    runChecks m w (tripletChecks cfg o (parseTriplet (spanOf buf o 3))) = .ok (w ++ warnIf (markerBad buf o 0) o) := by
  rw [runChecks_tripletChecks_cfg]
  refine if_neg ?_
  rintro ⟨rfl, hne⟩
  rcases h with h | h
  · cases h
  · exact hne (by simpa [markerBad, tripletAt] using h)

/-- In lenient mode, or when every marker is right, the triplets are read one after another. -/
theorem tripletsOf_cfg_ok : ∀ {k o : Nat} {w : List Nat}, (m = .lenient ∨ ∀ i, i < k → markerBad buf o i = false) →
    tripletsOf cfg m buf k o w = .ok ((List.range k).map fun i => (tripletAt buf o i).t,
      w ++ (List.range k).flatMap fun i => warnIf (markerBad buf o i) (o + 3 * i))
  | 0, _, w, _ => congrArg Except.ok (congrArg (Prod.mk []) (List.append_nil w).symm)
  | k + 1, o, w, h => by
    have hfirst := runChecks_triplet_ok (w := w) (h.imp_right fun hall => hall 0 (Nat.succ_pos k))
    have hrest := tripletsOf_cfg_ok (k := k) (o := o + 3) (w := w ++ warnIf (markerBad buf o 0) o)
      (h.imp_right fun hall i hi => (markerBad_succ buf o i).trans (hall (i + 1) (Nat.succ_lt_succ hi)))
    rw [tripletsOf_ok hfirst]
    refine (congrArg (Except.map _) hrest).trans ?_
    have hoff : ∀ i, o + 3 + 3 * i = o + 3 * (i + 1) := fun i => by omega
    rw [List.range_succ_eq_map]
    simp only [Except.map, Prod.map, id, List.map_cons, List.map_map, List.flatMap_cons, List.flatMap_map,
      Function.comp_def, tripletAt_succ, markerBad_succ, List.append_assoc, hoff]
    rfl

/-- In strict mode the first wrong marker ends the section at its offset. -/
theorem tripletsOf_cfg_error : ∀ {i k o : Nat} {w : List Nat}, i < k → markerBad buf o i = true →
    (∀ j, j < i → markerBad buf o j = false) →
      tripletsOf cfg .strict buf k o w = .error ⟨⟨.reservedBitMismatch, o + 3 * i⟩, o + 3 * i⟩
  | 0, k + 1, o, w, _, hbad, _ => by
    refine tripletsOf_error ?_ k
    have hsize : cfg.cctBytes = 3 := rfl
    rw [hsize, runChecks_tripletChecks_cfg]
    exact if_pos ⟨rfl, by simpa [markerBad, tripletAt] using hbad⟩
  | i + 1, k + 1, o, w, hi, hbad, hgood => by
    have hfirst := runChecks_triplet_ok (m := .strict) (w := w) (.inr (hgood 0 (Nat.succ_pos i)))
    have hrest := tripletsOf_cfg_error (i := i) (k := k) (o := o + 3) (w := w ++ warnIf (markerBad buf o 0) o)
      (Nat.lt_of_succ_lt_succ hi) ((markerBad_succ buf o i).trans hbad) fun j hj =>
        (markerBad_succ buf o j).trans (hgood (j + 1) (Nat.succ_lt_succ hj))
    have hoff : o + 3 + 3 * i = o + 3 * (i + 1) := by omega
    rw [tripletsOf_ok hfirst]
    refine (congrArg (Except.map _) hrest).trans ?_
    rw [hoff]
    rfl

end Triplets

section Operation

variable {c : Cfg}

theorem ccDecOf_eq_bind {m : Mode} {w : List Nat} {buf : List Byte} {cur : Nat} :
    ccDecOf c m w buf cur =
      (runChecks m w (ccHeadChecks c buf.length cur (parseCountHead (spanOf buf cur 2)))).bind fun w' =>
        raisedOf (tripletsOf c m buf (parseCountHead (spanOf buf cur 2)).count.toNat (cur + 2) w') := by
  rw [ccDecOf, ccSectionOf_eq_bind]
  cases runChecks m w (ccHeadChecks c buf.length cur (parseCountHead (spanOf buf cur 2))) <;> rfl

theorem exec_ccDec (s : State) :
    let e := parseCountHead (spanOf (inBytes s) s.cur 2)
    exec .ccDec s = decStep cfg s
      ((runChecks (effMode s) s.warn (countHeadChecks 0x72 7 31 3 s.n s.cur e)).bind fun w =>
        raisedOf (tripletsOf cfg (effMode s) (inBytes s) e.count.toNat (s.cur + 2) w))
      fun l => .ccData l (2 + 3 * l.length) := by
  have hrun : exec .ccDec s = decStep cfg s (ccDecOf cfg (effMode s) s.warn (inBytes s) s.cur) fun l =>
      .ccData l (2 + 3 * l.length) := rfl
  rw [hrun, ccDecOf_eq_bind, inBytes_length]
  rfl

/-- The fields of a triplet as numbers of its bytes in `IN`. -/
theorem toNat_tripletAt {s : State} {o i : Nat} (h : o + 3 * i + 3 ≤ s.n) :
    let e := tripletAt (inBytes s) o i
    let x := o + 3 * i
    e.marker.toNat = inNat s x / 8 ∧ e.t.valid.toNat = inNat s x / 4 % 2 ∧ e.t.ccType.toNat = inNat s x % 4 ∧
      e.t.d1.toNat = inNat s (x + 1) ∧ e.t.d2.toNat = inNat s (x + 2) := by
  have hbyte : ∀ j < 3, byteNat (spanOf (inBytes s) (o + 3 * i) 3) j = inNat s (o + 3 * i + j) := fun j hj =>
    byteNat_spanOf hj (by omega)
  have hfields := toNat_parseTriplet (spanOf (inBytes s) (o + 3 * i) 3)
  simp only [hbyte 0 (by decide), hbyte 1 (by decide), hbyte 2 (by decide), Nat.add_zero] at hfields
  exact hfields

end Operation

/-- Settles O43: behind the head's checks, the triplets are read under the marker policy. -/
theorem ccDecOutcome : Obligations.CcDecOutcome := by
  intro s
  dsimp only
  rw [exec_ccDec, runChecks_countHeadChecks_cfg]
  by_cases hshort : s.n < s.cur + 1
  · simp only [hshort, if_true]
    exact failsWith_raiseDecode ..
  obtain ⟨hid, hmarker, hcount⟩ := toNat_parseCountHead (spanOf (inBytes s) s.cur 2)
  rw [byteNat_spanOf (by omega) (by omega)] at hid
  simp only [hshort, if_false, ne_iff_of_toNat hid, BitVec.reduceToNat]
  by_cases hhead : s.n < s.cur + 2
  · simp only [hhead, if_true]
    split_ifs <;> exact failsWith_raiseDecode ..
  rw [byteNat_spanOf (by omega) (by omega)] at hmarker hcount
  simp only [hhead, if_false, ne_iff_of_toNat hmarker, bne_of_toNat hmarker, hcount, BitVec.reduceToNat]
  split_ifs with _ _ hroom
  iterate 3 exact failsWith_raiseDecode ..
  have hbad : ∀ i, i < inNat s (s.cur + 1) % 32 →
      markerBad (inBytes s) (s.cur + 2) i = (inNat s (s.cur + (2 + 3 * i)) / 8 != 31) := fun i hi => by
    rw [markerBad, bne_of_toNat (toNat_tripletAt (by omega)).1, Nat.add_assoc]
    rfl
  constructor
  · intro i hstrict hi hbadi hgood
    have herror := fun w => tripletsOf_cfg_error (w := w) hi ((hbad i hi).trans hbadi) fun j hj =>
      (hbad j (hj.trans hi)).trans (hgood j hj)
    simp only [hstrict, Except.bind, herror, raisedOf]
    exact failsWith_raiseDecode ..
  · intro hpolicy
    have hok := fun w => tripletsOf_cfg_ok (w := w) (hpolicy.imp_right fun hall i hi => (hbad i hi).trans (hall i hi))
    have hwarn : ((List.range (inNat s (s.cur + 1) % 32)).flatMap fun i =>
        warnIf (markerBad (inBytes s) (s.cur + 2) i) (s.cur + 2 + 3 * i)) =
        (List.range (inNat s (s.cur + 1) % 32)).flatMap fun i =>
          warnIf (inNat s (s.cur + (2 + 3 * i)) / 8 != 31) (s.cur + 2 + 3 * i) :=
      List.flatMap_congr fun i hi => by rw [hbad i (List.mem_range.1 hi)]
    simp only [Except.bind, hok, hwarn, raisedOf]
    refine ⟨(List.range (inNat s (s.cur + 1) % 32)).map fun i => (tripletAt (inBytes s) (s.cur + 2) i).t, ?_,
      by rw [List.length_map, List.length_range], fun i t ht => ?_⟩
    · simp only [decStep, List.length_map, List.length_range]
      rfl
    · obtain ⟨hi, rfl⟩ := List.getElem?_eq_some_iff.1 ht
      rw [List.length_map, List.length_range] at hi
      rw [List.getElem_map, List.getElem_range]
      obtain ⟨-, hvalid, htype, hd1, hd2⟩ := toNat_tripletAt (s := s) (o := s.cur + 2) (i := i) (by omega)
      have h2 : s.cur + (2 + 3 * i) = s.cur + 2 + 3 * i := by omega
      have h3 : s.cur + (3 + 3 * i) = s.cur + 2 + 3 * i + 1 := by omega
      have h4 : s.cur + (4 + 3 * i) = s.cur + 2 + 3 * i + 2 := by omega
      rw [h2, h3, h4]
      exact ⟨hvalid, htype, hd1, hd2⟩

end Sys2Proof.Machine
end

section
/-! The port between the host's moves, and the issue of an ENCODE (spec/60_exceptions.md R213 to R215,
spec/70_reset_and_hazards.md R232, R233). -/

namespace Sys2Proof.Machine

open Sys2Proof.Safety (PortQuiet isEmitter)

/-! An operation on a quiet port ends before the next move. -/

theorem busy_endDecode (c : Cfg) (s : State) (x : Except Abort Decoded) : busy (endDecode c s x) = false := by
  cases x <;> rfl

/-- An ENCODE ends in `Done` or in `Failed`. -/
theorem endEncode_st (c : Cfg) (s : State) (x : Except Raise (List Byte)) :
    (endEncode c s x).st = .done ∨ (endEncode c s x).st = .failed := by
  cases x
  · exact .inr rfl
  · exact .inl rfl

theorem busy_endEncode (c : Cfg) (s : State) (x : Except Raise (List Byte)) : busy (endEncode c s x) = false := by
  cases x <;> rfl

/-- A step of a block that is not busy leaves it not busy. -/
theorem busy_stepWith_of_ready {c : Cfg} {s t : State} (hready : busy s = false) (h : stepWith c s = .next t) :
    busy t = false := by
  obtain ⟨hnotWire, hnotReader, hnotEmitter⟩ := parseCmd_port s.cmd
  rw [stepWith, fetch_ready hready] at h
  generalize parseCmd s.cmd = i at *
  cases ran_of_exec h
  case wire hi _ => simp [hnotWire] at hi
  case reader hi _ => simp [hnotReader] at hi
  case emitter _ hi => simp [hnotEmitter] at hi
  case decode _ hrun =>
    obtain rfl := commandDecode_next hrun
    exact busy_endDecode ..
  case encode => exact busy_endEncode ..
  case ckCompute => rfl
  all_goals exact hready

theorem accepted_next {ok : Bool} {s t : State} (h : accepted ok s = .next t) : t = s := by
  cases ok <;> cases h
  rfl

/-- A move of the host leaves the port quiet: a command it issues has run by then. -/
theorem portQuiet_hostWrite {c : Cfg} {w : HostWrite} {s t : State} (hq : PortQuiet s) (h : hostWrite c w s = .next t) :
    PortQuiet t := by
  obtain ⟨hready, hcmd⟩ := hq
  rw [hostWrite_ready hready] at h
  cases w
  case cmd v =>
    obtain ⟨-, u, hstep, rfl⟩ := issue_eq_next h
    have hend : busy u = false := busy_stepWith_of_ready (s := { s with cmd := v }) hready hstep
    exact ⟨hend, rfl⟩
  case fCcEntryValid | fCcEntryType | fCcEntryD1 | fCcEntryD2 | fCcEntry | fSvcEntrySn | fSvcEntryAttr | fSvcEntry |
      fSvc =>
    obtain rfl := accepted_next h
    exact ⟨hready, hcmd⟩
  all_goals
    cases h
    exact ⟨hready, hcmd⟩

theorem stepWith_portQuiet (c : Cfg) {s : State} (h : PortQuiet s) : stepWith c s = .next s := by
  obtain ⟨hready, hcmd⟩ := h
  rw [stepWith, fetch_ready hready, hcmd]
  rfl

/-! The issue of an ENCODE. -/

theorem encodeReady_iff {c : Cfg} {s : State} : encodeReady c s = true ↔ ∀ r ∈ encodeReads c s.f, r ∈ s.fWritten := by
  simp [encodeReady]

/-- The code on the port does not matter for what an ENCODE does, and none stands there afterwards. -/
theorem quiet_endEncode (c : Cfg) (s : State) (code : BitVec 3) (x : Except Raise (List Byte)) :
    quiet (endEncode c (startEncode { s with cmd := code }) x) = quiet (endEncode c (startEncode s) x) := by
  cases x <;> rfl

theorem hostCommandWith_encode {c : Cfg} {s : State} (hready : busy s = false) :
    hostCommandWith c 0b010 s =
      if ∀ r ∈ encodeReads c s.f, r ∈ s.fWritten then
        .next (quiet (endEncode c (startEncode s) (encodePacket c (bankPkt c s.f))))
      else .refused .unwrittenOperand := by
  rw [hostCommandWith_ready hready]
  split_ifs with hwritten
  · have hmay : mayIssue c 0b010 s = true := encodeReady_iff.2 hwritten
    have hstep : stepWith c { s with cmd := 0b010 } =
        .next (endEncode c (startEncode { s with cmd := 0b010 }) (encodePacket c (bankPkt c s.f))) := by
      rw [stepWith, fetch_ready (s := { s with cmd := 0b010 }) hready]
      exact whenReady_ready hready
    rw [issue_next hmay hstep, quiet_endEncode]
  · exact issue_unwritten (Bool.eq_false_iff.2 fun h => hwritten (encodeReady_iff.1 h))

/-- Where nothing of `F` has been written, an ENCODE is refused: it reads `F.FR` whatever the tags are. -/
theorem hostCommandWith_encode_unwritten {c : Cfg} {s : State} (hready : busy s = false) (hnone : s.fWritten = []) :
    hostCommandWith c 0b010 s = .refused .unwrittenOperand := by
  have hreads : FReg.fr ∈ encodeReads c s.f := by simp [encodeReads, hdrEncReads]
  rw [hostCommandWith_encode hready, hnone]
  exact if_neg fun h => List.not_mem_nil (h _ hreads)

/-- An encoder does the same whatever has been written. -/
theorem exec_fWritten {c : Cfg} {i : Instr} {s t : State} (w : List FReg) (hi : i = .encode ∨ isEmitter i = true)
    (h : execWith c i s = .next t) : execWith c i { s with fWritten := w } = .next { t with fWritten := w } := by
  rcases hi with rfl | hi
  · cases hbusy : busy s
    · cases (whenReady_ready hbusy).symm.trans h
      refine (whenReady_ready (s := { s with fWritten := w }) hbusy).trans ?_
      simp only [commandEncode]
      cases encodePacket c (bankPkt c s.f) <;> rfl
    · cases (whenReady_busy hbusy).symm.trans h
      exact whenReady_busy hbusy
  · cases i
    case hdrEnc | tcEnc | cctEnc | ftrEnc =>
      cases h
      rfl
    case ccEnc | svcEnc | sveEnc =>
      obtain ⟨hok, hnext⟩ := withinContract_next h
      cases hnext
      exact withinContract_of hok
    all_goals cases hi

/-- Settles O25: a command runs inside the move that issues it, and ENCODE may be issued only where its registers are
written. -/
theorem encodeOfUnwrittenRegisters : Obligations.EncodeOfUnwrittenRegisters := by
  refine ⟨fun c s => hostCommandWith_encode, fun c => ⟨rfl, rfl⟩, fun c w s t => portQuiet_hostWrite,
    fun c s => stepWith_portQuiet c, fun c => hostCommandWith_encode_unwritten rfl rfl, ?_, ?_,
    fun c i s t w => exec_fWritten w⟩
  · intro c s t hready hdecode hst
    rw [show execWith c .decode s = commandDecode c s from whenReady_ready hready] at hdecode
    obtain rfl := commandDecode_next hdecode
    refine hostCommandWith_encode_unwritten (busy_endDecode ..) ?_
    rcases hx : decodePacket c s.mode (operandBytes s) with a | d
    · rfl
    · rw [hx] at hst
      cases hst
  · exact fun c s hready => ⟨_, whenReady_ready hready, endEncode_st ..⟩

end Sys2Proof.Machine
end

section
/-! The pseudo-operations, and the two orders of writing an entry file (spec/30_encoding.md R93,
spec/70_reset_and_hazards.md R232). -/

namespace Sys2Proof.Machine

variable {c : Cfg}

/-- A write that is accepted leaves the rest to be made from its next state. -/
theorem hostWrites_cons {w : HostWrite} {ws : List HostWrite} {s t : State} (hready : busy s = false)
    (h : applyWrite c w s = .next t) : hostWrites c (w :: ws) s = hostWrites c ws t := by
  rw [hostWrites, hostWrite_ready hready, h]

theorem hostWrites_append_of_next {us vs : List HostWrite} {s t : State} (h : hostWrites c us s = .next t) :
    hostWrites c (us ++ vs) s = hostWrites c vs t := by
  rw [hostWrites_append, h]

/-! An entry file: a count and its entries. -/

/-- An entry file of `F` and the writes of its count and of one entry: what they leave in the bank, and which registers
they record as written (spec/10_state.md R26, R27). -/
structure EntryFile (c : Cfg) (α : Type) where
  /-- The count register's value. -/
  count : Bank → Nat
  /-- The entries the bank holds. -/
  entries : Bank → List α
  /-- The registers of one entry. -/
  regs : Nat → List FReg
  /-- The entry of the file a register belongs to. -/
  indexOf : FReg → Option Nat
  /-- The count register. -/
  countReg : FReg
  /-- An entry of the file's width. -/
  wf : α → Bool
  writeCount : BitVec 5 → HostWrite
  writeEntry : Nat → α → HostWrite
  regs_index : ∀ i, ∀ r ∈ regs i, indexOf r = some i
  entry_applied : ∀ (s : State) (i : Nat) (a : α), i < countMost → wf a = true →
    ∃ t fresh, applyWrite c (writeEntry i a) s = .next t ∧ busy t = busy s ∧ count t.f = count s.f ∧
      entries t.f = putEntry fresh (entries s.f) i a ∧ ∀ r, r ∈ t.fWritten ↔ r ∈ s.fWritten ∨ r ∈ regs i
  count_applied : ∀ (s : State) (v : BitVec 5),
    ∃ t fresh, applyWrite c (writeCount v) s = .next t ∧ busy t = busy s ∧ count t.f = v.toNat ∧
      entries t.f = fileOf fresh v.toNat (entries s.f) ∧
      ∀ r, r ∈ t.fWritten ↔ (r ∈ s.fWritten ∧ ∀ i, indexOf r = some i → i < v.toNat) ∨ r = countReg

theorem ccEntryRegs_index (i : Nat) : ∀ r ∈ ccEntryRegs i, ccIndexOf r = some i := by
  simp [ccEntryRegs, ccIndexOf]

theorem svcEntryRegs_index (c : Cfg) (j : Nat) : ∀ r ∈ svcEntryRegs c j, svcIndexOf r = some j := by
  simp [svcEntryRegs, svcIndexOf]

theorem mem_setCcCount {s : State} {k : Nat} {r : FReg} :
    r ∈ (setCcCount s k).fWritten ↔ (r ∈ s.fWritten ∧ ∀ i, ccIndexOf r = some i → i < k) ∨ r = .ccCount := by
  rw [← mem_forgetFrom, ← List.mem_singleton]
  exact mem_markWritten

theorem mem_setSvcCount {s : State} {k : Nat} {r : FReg} :
    r ∈ (setSvcCount c s k).fWritten ↔ (r ∈ s.fWritten ∧ ∀ i, svcIndexOf r = some i → i < k) ∨ r = .svcCount := by
  rw [← mem_forgetFrom, ← List.mem_singleton]
  exact mem_markWritten

theorem entryExists_of_lt {count i : Nat} (h : i < countMost) : entryExists count i = true := by
  simp [entryExists, h]

/-- The cc-data file. -/
def ccFile (c : Cfg) : EntryFile c Triplet where
  count := Bank.ccCount
  entries := Bank.cc
  regs := ccEntryRegs
  indexOf := ccIndexOf
  countReg := .ccCount
  wf := fun _ => true
  writeCount := .fCcCount
  writeEntry := .fCcEntry
  regs_index := ccEntryRegs_index
  entry_applied s i a hi _ :=
    ⟨setCcEntry s (ccEntryRegs i) i a, _, by rw [applyWrite, entryExists_of_lt hi]; rfl, rfl, rfl, rfl,
      fun _ => mem_markWritten⟩
  count_applied s v := ⟨setCcCount s v.toNat, _, rfl, rfl, rfl, rfl, fun _ => mem_setCcCount⟩

/-- The service-info file. -/
def svcFile (c : Cfg) : EntryFile c SvcEntry where
  count := Bank.svcCount
  entries := Bank.svc
  regs := svcEntryRegs c
  indexOf := svcIndexOf
  countReg := .svcCount
  wf := wfSvcEntry c
  writeCount := .fSvcCount
  writeEntry := .fSvcEntry
  regs_index := svcEntryRegs_index c
  entry_applied s j e hj he :=
    ⟨setSvcEntry c s (svcEntryRegs c j) j e, _, by rw [applyWrite, entryExists_of_lt hj, he]; rfl, rfl, rfl, rfl,
      fun _ => mem_markWritten⟩
  count_applied s v := ⟨setSvcCount c s v.toNat, _, rfl, rfl, rfl, rfl, fun _ => mem_setSvcCount⟩

namespace EntryFile

variable {α : Type} (F : EntryFile c α) (l : List α) (d : α)

/-- The writes of the first `k` entries of a list, one after another. -/
def writeEntries (k : Nat) : List HostWrite :=
  (List.range k).map fun i => F.writeEntry i (l.getD i d)

theorem writeEntries_succ (k : Nat) :
    F.writeEntries l d (k + 1) = F.writeEntries l d k ++ [F.writeEntry k (l.getD k d)] := by
  rw [writeEntries, List.range_succ, List.map_append]
  rfl

/-- The file holds a list: its count, its entries, and all their registers written. -/
structure Holds (t : State) : Prop where
  count_eq : F.count t.f = l.length
  entries_eq : ∀ i, i < l.length → (F.entries t.f)[i]? = l[i]?
  written : ∀ r ∈ F.countReg :: (List.range l.length).flatMap F.regs, r ∈ t.fWritten

variable {l}

theorem hostWrites_writeEntries (hwf : ∀ a ∈ l, F.wf a = true) (hmost : l.length ≤ countMost) {s : State}
    (hready : busy s = false) : ∀ k, k ≤ l.length →
      ∃ t, hostWrites c (F.writeEntries l d k) s = .next t ∧ busy t = false ∧ F.count t.f = F.count s.f ∧
        (∀ i, i < k → (F.entries t.f)[i]? = l[i]?) ∧ (∀ r ∈ s.fWritten, r ∈ t.fWritten) ∧
        ∀ i, i < k → ∀ r ∈ F.regs i, r ∈ t.fWritten
  | 0, _ =>
    ⟨s, rfl, hready, rfl, fun _ h => absurd h (Nat.not_lt_zero _), fun _ => id, fun _ h => absurd h (Nat.not_lt_zero _)⟩
  | k + 1, hk => by
    obtain ⟨t, hrun, hbusy, hcount, hentries, hkept, hregs⟩ := hostWrites_writeEntries hwf hmost hready k (by omega)
    have hget : l.getD k d = l[k] := by
      rw [List.getD_eq_getElem?_getD, List.getElem?_eq_getElem (by omega)]
      rfl
    obtain ⟨u, fresh, happly, hubusy, hucount, huentries, huwritten⟩ :=
      F.entry_applied t k (l.getD k d) (by omega) (hget ▸ hwf _ (List.getElem_mem _))
    refine ⟨u, ?_, hubusy.trans hbusy, hucount.trans hcount, fun i hi => ?_,
      fun r hr => (huwritten r).2 (.inl (hkept r hr)), fun i hi r hr => (huwritten r).2 ?_⟩
    · rw [writeEntries_succ, hostWrites_append_of_next hrun]
      exact (hostWrites_cons hbusy happly).trans rfl
    · rw [huentries, getElem?_putEntry]
      rcases Nat.lt_succ_iff_lt_or_eq.1 hi with h | rfl
      · have hl : l[i]? = some l[i] := List.getElem?_eq_getElem (by omega)
        rw [if_neg (by omega), if_pos h, List.getD_eq_getElem?_getD, hentries i h, hl]
        rfl
      · rw [if_pos rfl, hget, List.getElem?_eq_getElem]
    · rcases Nat.lt_succ_iff_lt_or_eq.1 hi with h | rfl
      · exact .inl (hregs i h r hr)
      · exact .inr hr

/-- A file written count first holds the list, and so does one written entries first. -/
theorem holds_of_either_order (hwf : ∀ a ∈ l, F.wf a = true) (hmost : l.length ≤ countMost) {s : State}
    (hready : busy s = false) :
    ∃ t u, hostWrites c ([F.writeCount (BitVec.ofNat 5 l.length)] ++ F.writeEntries l d l.length) s = .next t ∧
      hostWrites c (F.writeEntries l d l.length ++ [F.writeCount (BitVec.ofNat 5 l.length)]) s = .next u ∧
      F.Holds l t ∧ F.Holds l u := by
  have hcount : (BitVec.ofNat 5 l.length).toNat = l.length := by
    rw [BitVec.toNat_ofNat]
    exact Nat.mod_eq_of_lt (Nat.lt_succ_of_le hmost)
  obtain ⟨s1, f1, happly1, hbusy1, hcount1, -, hwritten1⟩ := F.count_applied s (BitVec.ofNat 5 l.length)
  obtain ⟨t, hrun, -, htcount, htentries, htkept, htregs⟩ :=
    F.hostWrites_writeEntries d hwf hmost (hbusy1.trans hready) l.length le_rfl
  obtain ⟨u1, hurun, hubusy, hucount, huentries, hukept, huregs⟩ :=
    F.hostWrites_writeEntries d hwf hmost hready l.length le_rfl
  obtain ⟨u, f2, happly2, -, hcount2, hentries2, hwritten2⟩ := F.count_applied u1 (BitVec.ofNat 5 l.length)
  refine ⟨t, u, (hostWrites_cons hready happly1).trans hrun,
    (hostWrites_append_of_next hurun).trans ((hostWrites_cons hubusy happly2).trans rfl), ⟨?_, htentries, ?_⟩, ?_, ?_, ?_⟩
  · rw [htcount, hcount1, hcount]
  · intro r hr
    rcases List.mem_cons.1 hr with rfl | hr
    · exact htkept _ ((hwritten1 _).2 (.inr rfl))
    · obtain ⟨i, hi, hr⟩ := List.mem_flatMap.1 hr
      exact htregs i (List.mem_range.1 hi) r hr
  · rw [hcount2, hcount]
  · intro i hi
    rw [hentries2, getElem?_fileOf, hcount, if_pos hi, List.getD_eq_getElem?_getD, huentries i hi,
      List.getElem?_eq_getElem hi]
    rfl
  · intro r hr
    rw [hwritten2, hcount]
    rcases List.mem_cons.1 hr with rfl | hr
    · exact .inr rfl
    · obtain ⟨i, hi, hr⟩ := List.mem_flatMap.1 hr
      rw [List.mem_range] at hi
      refine .inl ⟨huregs i hi r hr, fun j hj => ?_⟩
      rw [F.regs_index i r hr, Option.some.injEq] at hj
      exact hj ▸ hi

end EntryFile

/-- Registers that hold the entries of a list, up to its length, are the file of it. -/
theorem fileOf_of_agree {α : Type} {fresh : Nat → α} {m l : List α} (h : ∀ i, i < l.length → m[i]? = l[i]?) :
    fileOf fresh l.length m = l := by
  refine List.ext_getElem (fileOf_length ..) fun i h1 h2 => ?_
  simp [fileOf, List.getD_eq_getElem?_getD, h i h2, h2]

theorem ccEntries_of_holds {l : List Triplet} {t : State} (h : (ccFile c).Holds l t) :
    ccEntries t.f = l ∧ ∀ r ∈ ccReads t.f, r ∈ t.fWritten := by
  obtain ⟨hcount, hentries, hwritten⟩ := h
  replace hcount : t.f.ccCount = l.length := hcount
  constructor
  · rw [ccEntries, hcount]
    exact fileOf_of_agree hentries
  · rw [ccReads, hcount]
    exact hwritten

theorem svcEntries_of_holds {l : List SvcEntry} {t : State} (hwf : l.all (wfSvcEntry c) = true)
    (h : (svcFile c).Holds l t) : svcEntries c t.f = l ∧ ∀ r ∈ svcReads c t.f, r ∈ t.fWritten := by
  obtain ⟨hcount, hentries, hwritten⟩ := h
  replace hcount : t.f.svcCount = l.length := hcount
  constructor
  · rw [svcEntries, hcount]
    exact (congrArg (wholeEntries c) (fileOf_of_agree hentries)).trans (wholeEntries_of_wf hwf)
  · rw [svcReads, hcount]
    exact hwritten

/-! The pseudo-operations: each sets a member's flag and tag together, and writes what ENCODE reads of the member. -/

section Pseudo

variable {s : State}

/-- The bank with the time code's flag and tag set or cleared together. -/
def withTcTag (b : Bank) (x : Bit) : Bank :=
  { b with hdr := { b.hdr with flags := { b.hdr.flags with tc := x } }, tcValid := x }

/-- The same of the cc-data member. -/
def withCcTag (b : Bank) (x : Bit) : Bank :=
  { b with hdr := { b.hdr with flags := { b.hdr.flags with cc := x } }, ccValid := x }

/-- The same of the service-info member. -/
def withSvcTag (b : Bank) (x : Bit) : Bank :=
  { b with hdr := { b.hdr with flags := { b.hdr.flags with svc := x } }, svcValid := x }

theorem busy_setRegs (s : State) (rs : List FReg) (b : Bank) : busy (setRegs s rs b) = busy s := rfl

/-- Writes of registers one after another are one write of them all. -/
theorem setRegs_setRegs (s : State) (rs rs' : List FReg) (b b' : Bank) :
    setRegs (setRegs s rs b) rs' b' = setRegs s (rs ++ rs') b' := by
  simp only [setRegs, markWritten, List.foldl_append]

theorem hostWrites_setTc (hready : busy s = false) (v : TimeCode) :
    hostWrites c (setTc v) s =
      .next (setRegs s ([.tcValid, .tcPresent] ++ tcRegs) { withTcTag s.f 1 with tc := v }) := by
  simp only [setTc, hostWrites, hostWrite, applyWrite, setTcReg, setFlags, setHdr, setReg, busy_setRegs, hready,
    Bool.false_eq_true, if_false, setRegs_f, setRegs_setRegs, tcRegs, withTcTag, List.cons_append, List.nil_append]

theorem hostWrites_clrTc (hready : busy s = false) :
    hostWrites c clrTc s = .next (setRegs s [.tcValid, .tcPresent] (withTcTag s.f 0)) := by
  unfold clrTc
  iterate 2 refine Eq.trans (hostWrites_cons hready rfl) ?_
  rfl

theorem hostWrites_setCc (hready : busy s = false) (l : List Triplet) :
    hostWrites c (setCc l) s =
      .next (setCcFile (setRegs s [.ccValid, .ccPresent] (withCcTag s.f 1)) l) := by
  unfold setCc
  iterate 3 refine Eq.trans (hostWrites_cons hready rfl) ?_
  rfl

theorem hostWrites_clrCc (hready : busy s = false) :
    hostWrites c clrCc s = .next (setRegs s [.ccValid, .ccPresent] (withCcTag s.f 0)) := by
  unfold clrCc
  iterate 2 refine Eq.trans (hostWrites_cons hready rfl) ?_
  rfl

theorem hostWrites_setSvc (hready : busy s = false) {e : List SvcEntry} (he : e.all (wfSvcEntry c) = true) :
    hostWrites c (setSvc e) s =
      .next (setSvcFile c (setRegs s [.svcValid, .svcPresent] (withSvcTag s.f 1)) e) := by
  unfold setSvc
  iterate 2 refine Eq.trans (hostWrites_cons hready rfl) ?_
  refine Eq.trans (hostWrites_cons hready
    (t := setSvcFile c (setRegs s [.svcValid, .svcPresent] (withSvcTag s.f 1)) e) ?_) rfl
  rw [applyWrite, he]
  rfl

theorem hostWrites_clrSvc (hready : busy s = false) :
    hostWrites c clrSvc s = .next (setRegs s [.svcValid, .svcPresent] (withSvcTag s.f 0)) := by
  unfold clrSvc
  iterate 2 refine Eq.trans (hostWrites_cons hready rfl) ?_
  rfl

/-- The registers outside the entries belong to no entry. -/
theorem index_of_fixedRegs : ∀ r ∈ fixedRegs, ccIndexOf r = none ∧ svcIndexOf r = none := by
  decide

theorem hdrEncReads_fixed : ∀ r ∈ hdrEncReads, r ∈ fixedRegs := by
  decide

theorem tcReads_fixed {x : Bit} : ∀ r ∈ (if x = 1 then tcRegs else []), r ∈ fixedRegs := by
  split_ifs <;> decide

/-- What ENCODE reads of the cc-data file, if its tag is set, belongs to no service-info entry. -/
theorem svcIndexOf_ccReads {b : Bank} {r : FReg} {x : Bit} (h : r ∈ if x = 1 then ccReads b else []) :
    svcIndexOf r = none := by
  replace h : r ∈ ccReads b := by
    split_ifs at h
    · exact h
    · exact absurd h List.not_mem_nil
  rw [ccReads, List.mem_cons, List.mem_flatMap] at h
  rcases h with rfl | ⟨i, -, hr⟩
  · rfl
  · revert hr
    simp only [ccEntryRegs, List.mem_cons, List.not_mem_nil, or_false]
    rintro (rfl | rfl | rfl | rfl) <;> rfl

theorem hostWrites_tcMember (hready : busy s = false) {v : TimeCode} {ws : List HostWrite}
    (hws : ws = setTc v ∨ ws = clrTc) :
    ∃ t, hostWrites c ws s = .next t ∧ busy t = false ∧ (∃ x y, t.f = { withTcTag s.f x with tc := y }) ∧
      (ws = setTc v → t.f.tc = v) ∧ (∀ r ∈ s.fWritten, r ∈ t.fWritten) ∧
      ∀ r ∈ .tcValid :: (if t.f.tcValid = 1 then tcRegs else []), r ∈ t.fWritten := by
  rcases hws with rfl | rfl
  · refine ⟨_, hostWrites_setTc hready v, hready, ⟨1, v, rfl⟩, fun _ => rfl, fun r hr => mem_setRegs.2 (.inl hr),
      fun r hr => mem_setRegs.2 (.inr ?_)⟩
    rcases List.mem_cons.1 hr with rfl | hr
    · exact List.mem_cons_self ..
    · exact List.mem_append_right _ hr
  · refine ⟨_, hostWrites_clrTc hready, hready, ⟨0, s.f.tc, rfl⟩, fun h => by simp [clrTc, setTc] at h,
      fun r hr => mem_setRegs.2 (.inl hr), fun r hr => mem_setRegs.2 (.inr ?_)⟩
    obtain rfl := List.mem_singleton.1 hr
    exact List.mem_cons_self ..

theorem hostWrites_ccMember (hready : busy s = false) {l : List Triplet} {ws : List HostWrite}
    (hws : ws = setCc l ∨ ws = clrCc) :
    ∃ t, hostWrites c ws s = .next t ∧ busy t = false ∧
      (∃ x k y, t.f = { withCcTag s.f x with ccCount := k, cc := y }) ∧ (ws = setCc l → ccEntries t.f = l) ∧
      (∀ r ∈ s.fWritten, ccIndexOf r = none → r ∈ t.fWritten) ∧
      ∀ r ∈ .ccValid :: (if t.f.ccValid = 1 then ccReads t.f else []), r ∈ t.fWritten := by
  rcases hws with rfl | rfl
  · have hkept : ∀ r, r ∈ s.fWritten ∨ r ∈ [FReg.ccValid, .ccPresent] → ccIndexOf r = none →
        r ∈ (setCcFile (setRegs s [.ccValid, .ccPresent] (withCcTag s.f 1)) l).fWritten := fun r hr hindex =>
      mem_setRegs.2 (.inl (mem_setCcCount.2 (.inl ⟨mem_setRegs.2 hr, fun i hi => by rw [hindex] at hi; cases hi⟩)))
    refine ⟨_, hostWrites_setCc hready l, hready, ⟨1, _, _, rfl⟩, fun _ => fileOf_self _ l,
      fun r hr => hkept r (.inl hr), fun r hr => ?_⟩
    rcases List.mem_cons.1 hr with rfl | hr
    · exact hkept _ (.inr (List.mem_cons_self ..)) rfl
    · rcases List.mem_cons.1 hr with rfl | hr
      · exact mem_setRegs.2 (.inl (mem_setCcCount.2 (.inr rfl)))
      · exact mem_setRegs.2 (.inr hr)
  · refine ⟨_, hostWrites_clrCc hready, hready, ⟨0, s.f.ccCount, s.f.cc, rfl⟩, fun h => by simp [clrCc, setCc] at h,
      fun r hr _ => mem_setRegs.2 (.inl hr), fun r hr => mem_setRegs.2 (.inr ?_)⟩
    obtain rfl := List.mem_singleton.1 hr
    exact List.mem_cons_self ..

theorem hostWrites_svcMember (hready : busy s = false) {e : List SvcEntry} (he : e.all (wfSvcEntry c) = true)
    {ws : List HostWrite} (hws : ws = setSvc e ∨ ws = clrSvc) :
    ∃ t, hostWrites c ws s = .next t ∧
      (∃ x k y, t.f = { withSvcTag s.f x with svcCount := k, svc := y }) ∧ (ws = setSvc e → svcEntries c t.f = e) ∧
      (∀ r ∈ s.fWritten, svcIndexOf r = none → r ∈ t.fWritten) ∧
      ∀ r ∈ .svcValid :: (if t.f.svcValid = 1 then svcReads c t.f else []), r ∈ t.fWritten := by
  rcases hws with rfl | rfl
  · have hkept : ∀ r, r ∈ s.fWritten ∨ r ∈ [FReg.svcValid, .svcPresent] → svcIndexOf r = none →
        r ∈ (setSvcFile c (setRegs s [.svcValid, .svcPresent] (withSvcTag s.f 1)) e).fWritten := fun r hr hindex =>
      mem_setRegs.2 (.inl (mem_setSvcCount.2 (.inl ⟨mem_setRegs.2 hr, fun i hi => by rw [hindex] at hi; cases hi⟩)))
    have hentries : svcEntries c (setSvcFile c (setRegs s [.svcValid, .svcPresent] (withSvcTag s.f 1)) e).f = e :=
      (congrArg (wholeEntries c) (fileOf_self _ e)).trans (wholeEntries_of_wf he)
    refine ⟨_, hostWrites_setSvc hready he, ⟨1, _, _, rfl⟩, fun _ => hentries, fun r hr => hkept r (.inl hr),
      fun r hr => ?_⟩
    rcases List.mem_cons.1 hr with rfl | hr
    · exact hkept _ (.inr (List.mem_cons_self ..)) rfl
    · rcases List.mem_cons.1 hr with rfl | hr
      · exact mem_setRegs.2 (.inl (mem_setSvcCount.2 (.inr rfl)))
      · exact mem_setRegs.2 (.inr hr)
  · refine ⟨_, hostWrites_clrSvc hready, ⟨0, s.f.svcCount, s.f.svc, rfl⟩, fun h => by simp [clrSvc, setSvc] at h,
      fun r hr _ => mem_setRegs.2 (.inl hr), fun r hr => mem_setRegs.2 (.inr ?_)⟩
    obtain rfl := List.mem_singleton.1 hr
    exact List.mem_cons_self ..

end Pseudo

/-- Settles O29: each pseudo-operation sets its flag and tag together and leaves what the others wrote, and an entry file
holds the list in either order of its writes. -/
theorem pseudoOperationsKeepTagsInStep : Obligations.PseudoOperationsKeepTagsInStep := by
  refine ⟨?_, ?_, ?_⟩
  · intro s tc cc svc v l e hready he htc hcc hsvc
    obtain ⟨t1, hrun1, hready1, ⟨x1, y1, hf1⟩, hvalue1, hkept1, hreads1⟩ := hostWrites_tcMember (c := cfg) hready htc
    obtain ⟨t2, hrun2, hready2, ⟨x2, k2, y2, hf2⟩, hvalue2, hkept2, hreads2⟩ := hostWrites_ccMember (c := cfg) hready1 hcc
    obtain ⟨t3, hrun3, ⟨x3, k3, y3, hf3⟩, hvalue3, hkept3, hreads3⟩ := hostWrites_svcMember hready2 he hsvc
    have hfixed : ∀ r ∈ t1.fWritten, r ∈ fixedRegs → r ∈ t3.fWritten := fun r hr hfix =>
      hkept3 r (hkept2 r hr (index_of_fixedRegs r hfix).1) (index_of_fixedRegs r hfix).2
    have htags : t3.f.tcValid = t1.f.tcValid ∧ t3.f.ccValid = t2.f.ccValid ∧ ccReads t3.f = ccReads t2.f := by
      rw [hf3, hf2]
      exact ⟨rfl, rfl, rfl⟩
    obtain ⟨htcTag, hccTag, hccReads⟩ := htags
    refine ⟨t3, ?_, ?_, ?_, ?_, hvalue3, fun hhdr => encodeReady_iff.2 fun r hr => ?_⟩
    · rw [hostWrites_append_of_next ((hostWrites_append_of_next hrun1).trans hrun2), hrun3]
    · rw [flagsConsistent_bankPkt, hf3, hf2, hf1]
      exact ⟨rfl, rfl, rfl⟩
    · intro h
      rw [hf3, hf2]
      exact hvalue1 h
    · intro h
      rw [hf3]
      exact hvalue2 h
    · simp only [encodeReads, List.mem_append, htcTag, hccTag, hccReads] at hr
      rcases hr with (((hr | hr) | hr) | hr) | hr
      · exact hfixed r (hkept1 r (hhdr r hr)) (hdrEncReads_fixed r hr)
      · simp only [List.mem_cons, List.not_mem_nil, or_false] at hr
        rcases hr with rfl | rfl | rfl
        · exact hfixed _ (hreads1 _ (List.mem_cons_self ..)) (by decide)
        · exact hkept3 _ (hreads2 _ (List.mem_cons_self ..)) rfl
        · exact hreads3 _ (List.mem_cons_self ..)
      · exact hfixed r (hreads1 r (List.mem_cons_of_mem _ hr)) (tcReads_fixed r hr)
      · exact hkept3 r (hreads2 r (List.mem_cons_of_mem _ hr)) (svcIndexOf_ccReads hr)
      · exact hreads3 r (List.mem_cons_of_mem _ hr)
  · intro c s l hready hmost
    obtain ⟨t, u, ht, hu, hholdst, hholdsu⟩ := (ccFile c).holds_of_either_order Triplet.zero (fun _ _ => rfl) hmost hready
    exact ⟨t, u, ht, hu, (ccEntries_of_holds hholdst).1, (ccEntries_of_holds hholdsu).1, (ccEntries_of_holds hholdst).2,
      (ccEntries_of_holds hholdsu).2⟩
  · intro c s l hready hmost hwf
    obtain ⟨t, u, ht, hu, hholdst, hholdsu⟩ :=
      (svcFile c).holds_of_either_order ⟨0, []⟩ (List.all_eq_true.1 hwf) hmost hready
    obtain ⟨hvaluet, hreadst⟩ := svcEntries_of_holds hwf hholdst
    obtain ⟨hvalueu, hreadsu⟩ := svcEntries_of_holds hwf hholdsu
    exact ⟨t, u, ht, hu, hvaluet, hvalueu, hreadst, hreadsu⟩

end Sys2Proof.Machine
end
